-- ==== Sys2Proof/Word.lean ====
section
/-! DEFINITION. The word types of the machine (00_scope.md R6, R8, R9): every quantity is an unsigned bit vector. -/

namespace Sys2Proof

/-- A general register, DT, ST, a memory cell: 8 bits (R6 `REG_W`). -/
abbrev Byte := BitVec 8

/-- An instruction word, I, PC, INFO and a stack entry: 16 bits (R6 `I_W`, `PC_W`, `STACK_W`). -/
abbrev Word := BitVec 16

/-- A general register's number: the 4-bit field `x` or `y` (R20, R93). -/
abbrev Reg := BitVec 4

/-- The 4-bit row count `n` of Dxyn (R93). -/
abbrev Nibble := BitVec 4

/-- The 12-bit address field `nnn` (R93). -/
abbrev Addr12 := BitVec 12

/-- Register 15, VF, the one flag of the machine (R22). -/
abbrev VF : Reg := 15#4

end Sys2Proof
end

