-- ==== Sys2Proof/Syntax.lean ====
section
/-! DEFINITION. The instructions: one constructor per row of spec/opcode_table.json (30_encoding.md R95). -/

namespace Sys2Proof

/-- The 35 instructions, in the order of the opcode map R95. -/
inductive Instr where
  /-- 00E0 CLS (R211). -/
  | cls
  /-- 00EE RET (R142). -/
  | ret
  /-- 0nnn SYS, `nnn` neither 0x0E0 nor 0x0EE (R96, R141). -/
  | sys (nnn : Addr12)
  /-- 1nnn JP (R143). -/
  | jp (nnn : Addr12)
  /-- 2nnn CALL (R144). -/
  | call (nnn : Addr12)
  /-- 3xkk SE_VX_KK (R146). -/
  | seVxKk (x : Reg) (kk : Byte)
  /-- 4xkk SNE_VX_KK (R147). -/
  | sneVxKk (x : Reg) (kk : Byte)
  /-- 5xy0 SE_VX_VY (R148). -/
  | seVxVy (x y : Reg)
  /-- 6xkk LD_VX_KK (R161). -/
  | ldVxKk (x : Reg) (kk : Byte)
  /-- 7xkk ADD_VX_KK (R162). -/
  | addVxKk (x : Reg) (kk : Byte)
  /-- 8xy0 LD_VX_VY (R163). -/
  | ldVxVy (x y : Reg)
  /-- 8xy1 OR (R164). -/
  | or (x y : Reg)
  /-- 8xy2 AND (R165). -/
  | and (x y : Reg)
  /-- 8xy3 XOR (R166). -/
  | xor (x y : Reg)
  /-- 8xy4 ADD_VX_VY (R167). -/
  | addVxVy (x y : Reg)
  /-- 8xy5 SUB (R168). -/
  | sub (x y : Reg)
  /-- 8xy6 SHR; the `y` field is kept and unused (R102, R169). -/
  | shr (x y : Reg)
  /-- 8xy7 SUBN (R170). -/
  | subn (x y : Reg)
  /-- 8xyE SHL; the `y` field is kept and unused (R102, R171). -/
  | shl (x y : Reg)
  /-- 9xy0 SNE_VX_VY (R149). -/
  | sneVxVy (x y : Reg)
  /-- Annn LD_I (R191). -/
  | ldI (nnn : Addr12)
  /-- Bnnn JP_V0 (R145). -/
  | jpV0 (nnn : Addr12)
  /-- Cxkk RND (R172). -/
  | rnd (x : Reg) (kk : Byte)
  /-- Dxyn DRW (R213). -/
  | drw (x y : Reg) (n : Nibble)
  /-- Ex9E SKP (R230). -/
  | skp (x : Reg)
  /-- ExA1 SKNP (R231). -/
  | sknp (x : Reg)
  /-- Fx07 LD_VX_DT (R233). -/
  | ldVxDt (x : Reg)
  /-- Fx0A LD_VX_K (R232). -/
  | ldVxK (x : Reg)
  /-- Fx15 LD_DT_VX (R234). -/
  | ldDtVx (x : Reg)
  /-- Fx18 LD_ST_VX (R235). -/
  | ldStVx (x : Reg)
  /-- Fx1E ADD_I_VX (R192). -/
  | addIVx (x : Reg)
  /-- Fx29 LD_F_VX (R193). -/
  | ldFVx (x : Reg)
  /-- Fx33 LD_B_VX (R194). -/
  | ldBVx (x : Reg)
  /-- Fx55 LD_MI_VX (R195). -/
  | ldMiVx (x : Reg)
  /-- Fx65 LD_VX_MI (R196). -/
  | ldVxMi (x : Reg)
deriving DecidableEq, Repr

end Sys2Proof
end

