-- ==== Sys2Proof/WellFormed.lean ====
section
/-! DEFINITION. Which terms of `Instr` stand for a word (30_encoding.md R94, R96): the operand types hold every field
at its width (R92), so the one check left is that a SYS operand is neither that of CLS nor that of RET. -/

namespace Sys2Proof

/-- R96: the words 0x00E0 and 0x00EE are CLS and RET, so SYS has neither 0x0E0 nor 0x0EE as its operand. -/
abbrev sysOperandOk (nnn : Addr12) : Prop := nnn ≠ 0x0E0#12 ∧ nnn ≠ 0x0EE#12

/-- Whether the instruction is one some word decodes to: every constructor but SYS takes any field values (R92, R93). -/
def Instr.wellFormed : Instr → Bool
  | .sys nnn => decide (sysOperandOk nnn)
  | .cls | .ret | .jp _ | .call _ | .seVxKk _ _ | .sneVxKk _ _ | .seVxVy _ _ | .ldVxKk _ _ | .addVxKk _ _
  | .ldVxVy _ _ | .or _ _ | .and _ _ | .xor _ _ | .addVxVy _ _ | .sub _ _ | .shr _ _ | .subn _ _ | .shl _ _
  | .sneVxVy _ _ | .ldI _ | .jpV0 _ | .rnd _ _ | .drw _ _ _ | .skp _ | .sknp _ | .ldVxDt _ | .ldVxK _ | .ldDtVx _
  | .ldStVx _ | .addIVx _ | .ldFVx _ | .ldBVx _ | .ldMiVx _ | .ldVxMi _ => true

/-- The check as a proposition. -/
abbrev Instr.WellFormed (i : Instr) : Prop := i.wellFormed = true

end Sys2Proof
end

