-- ==== Sys2Proof/Decode.lean ====
section
/-! DEFINITION. The decoder (30_encoding.md R92 to R101), total on every word and every list of bytes, and after it the
encoder written from the same table R95. Instruction words are big-endian in memory (R63, R90). -/

namespace Sys2Proof

/-! ### Fields (R92) -/

/-- `class = op[15:12]`. -/
def opClass (op : Word) : BitVec 4 := op.extractLsb' 12 4

/-- `x = (op & 0x0F00) >> 8`. -/
def opX (op : Word) : Reg := op.extractLsb' 8 4

/-- `y = (op & 0x00F0) >> 4`. -/
def opY (op : Word) : Reg := op.extractLsb' 4 4

/-- `n = op & 0x000F`. -/
def opN (op : Word) : Nibble := op.extractLsb' 0 4

/-- `kk = op & 0x00FF`. -/
def opKK (op : Word) : Byte := op.extractLsb' 0 8

/-- `nnn = op & 0x0FFF`. -/
def opNNN (op : Word) : Addr12 := op.extractLsb' 0 12

/-! ### Decoding (R94) -/

/-- Why a word is Illegal (R94, R101): dispatching it raises UnsupportedOpcode. -/
inductive Illegal where
  /-- Class 0x5 with a non-zero low nibble (R100). -/
  | class5
  /-- Class 0x8 with low nibble 8, 9, A, B, C, D or F (R97). -/
  | class8
  /-- Class 0x9 with a non-zero low nibble (R100). -/
  | class9
  /-- Class 0xE with a low byte other than 9E and A1 (R98). -/
  | classE
  /-- Class 0xF with a low byte other than the nine of R99. -/
  | classF
deriving DecidableEq, Repr

/-- Class 0x0: the two fixed words are matched first, every other word is SYS (R96). -/
def decodeClass0 (op : Word) : Except Illegal Instr :=
  if op = 0x00E0 then .ok .cls
  else if op = 0x00EE then .ok .ret
  else .ok (.sys (opNNN op))

/-- Class 0x5: only the low nibble 0 is legal (R100; log 24). -/
def decodeClass5 (op : Word) : Except Illegal Instr :=
  if opN op = 0x0 then .ok (.seVxVy (opX op) (opY op)) else .error .class5

/-- The second level of class 0x8, on the low nibble (R97). -/
def decodeClass8 (op : Word) : Except Illegal Instr :=
  match (opN op).toNat with
  | 0x0 => .ok (.ldVxVy (opX op) (opY op))
  | 0x1 => .ok (.or (opX op) (opY op))
  | 0x2 => .ok (.and (opX op) (opY op))
  | 0x3 => .ok (.xor (opX op) (opY op))
  | 0x4 => .ok (.addVxVy (opX op) (opY op))
  | 0x5 => .ok (.sub (opX op) (opY op))
  | 0x6 => .ok (.shr (opX op) (opY op))
  | 0x7 => .ok (.subn (opX op) (opY op))
  | 0xE => .ok (.shl (opX op) (opY op))
  | _ => .error .class8

/-- Class 0x9: only the low nibble 0 is legal (R100; log 24). -/
def decodeClass9 (op : Word) : Except Illegal Instr :=
  if opN op = 0x0 then .ok (.sneVxVy (opX op) (opY op)) else .error .class9

/-- The second level of class 0xE, on the low byte (R98). -/
def decodeClassE (op : Word) : Except Illegal Instr :=
  match (opKK op).toNat with
  | 0x9E => .ok (.skp (opX op))
  | 0xA1 => .ok (.sknp (opX op))
  | _ => .error .classE

/-- The second level of class 0xF, on the low byte (R99). -/
def decodeClassF (op : Word) : Except Illegal Instr :=
  match (opKK op).toNat with
  | 0x07 => .ok (.ldVxDt (opX op))
  | 0x0A => .ok (.ldVxK (opX op))
  | 0x15 => .ok (.ldDtVx (opX op))
  | 0x18 => .ok (.ldStVx (opX op))
  | 0x1E => .ok (.addIVx (opX op))
  | 0x29 => .ok (.ldFVx (opX op))
  | 0x33 => .ok (.ldBVx (opX op))
  | 0x55 => .ok (.ldMiVx (opX op))
  | 0x65 => .ok (.ldVxMi (opX op))
  | _ => .error .classF

/-- The decoder of R94: one of the 35 instructions, or the reason the word is Illegal. A class is a nibble, so the last
arm is class 0xF. -/
def decodeWord (op : Word) : Except Illegal Instr :=
  match (opClass op).toNat with
  | 0x0 => decodeClass0 op
  | 0x1 => .ok (.jp (opNNN op))
  | 0x2 => .ok (.call (opNNN op))
  | 0x3 => .ok (.seVxKk (opX op) (opKK op))
  | 0x4 => .ok (.sneVxKk (opX op) (opKK op))
  | 0x5 => decodeClass5 op
  | 0x6 => .ok (.ldVxKk (opX op) (opKK op))
  | 0x7 => .ok (.addVxKk (opX op) (opKK op))
  | 0x8 => decodeClass8 op
  | 0x9 => decodeClass9 op
  | 0xA => .ok (.ldI (opNNN op))
  | 0xB => .ok (.jpV0 (opNNN op))
  | 0xC => .ok (.rnd (opX op) (opKK op))
  | 0xD => .ok (.drw (opX op) (opY op) (opN op))
  | 0xE => decodeClassE op
  | _ => decodeClassF op

/-! ### Words and bytes (R63, R90) -/

/-- The word whose first byte, at the lower address, is `hi` (R63). -/
def wordOfBytes (hi lo : Byte) : Word := hi ++ lo

/-- Bits 15:8 of a word, the byte at the lower address (R63). -/
def wordHi (w : Word) : Byte := w.extractLsb' 8 8

/-- Bits 7:0 of a word, the byte at the higher address (R63). -/
def wordLo (w : Word) : Byte := w.extractLsb' 0 8

/-- Why a list of bytes gives no instruction. -/
inductive DecodeError where
  /-- Fewer than two bytes (R90: every instruction is two bytes). -/
  | truncated
  /-- The first two bytes are an Illegal word. -/
  | illegal (why : Illegal)
deriving DecidableEq, Repr

/-- The instruction at the head of a list of bytes, with the bytes after it. -/
def decode : List Byte → Except DecodeError (Instr × List Byte)
  | hi :: lo :: rest =>
    match decodeWord (wordOfBytes hi lo) with
    | .ok i => .ok (i, rest)
    | .error e => .error (.illegal e)
  | _ => .error .truncated

/-! ### Encoding (R91, R95) -/

/-- Layout NNN (R91). -/
def wordNNN (c : BitVec 4) (nnn : Addr12) : Word := c ++ nnn

/-- Layouts XKK and XFF (R91). -/
def wordXKK (c : BitVec 4) (x : Reg) (kk : Byte) : Word := c ++ x ++ kk

/-- Layouts XYN and XYF (R91). -/
def wordXYN (c : BitVec 4) (x y : Reg) (n : Nibble) : Word := c ++ x ++ y ++ n

/-- The word of an instruction (R95). -/
def encode : Instr → Word
  | .cls => 0x00E0
  | .ret => 0x00EE
  | .sys nnn => wordNNN 0x0 nnn
  | .jp nnn => wordNNN 0x1 nnn
  | .call nnn => wordNNN 0x2 nnn
  | .seVxKk x kk => wordXKK 0x3 x kk
  | .sneVxKk x kk => wordXKK 0x4 x kk
  | .seVxVy x y => wordXYN 0x5 x y 0x0
  | .ldVxKk x kk => wordXKK 0x6 x kk
  | .addVxKk x kk => wordXKK 0x7 x kk
  | .ldVxVy x y => wordXYN 0x8 x y 0x0
  | .or x y => wordXYN 0x8 x y 0x1
  | .and x y => wordXYN 0x8 x y 0x2
  | .xor x y => wordXYN 0x8 x y 0x3
  | .addVxVy x y => wordXYN 0x8 x y 0x4
  | .sub x y => wordXYN 0x8 x y 0x5
  | .shr x y => wordXYN 0x8 x y 0x6
  | .subn x y => wordXYN 0x8 x y 0x7
  | .shl x y => wordXYN 0x8 x y 0xE
  | .sneVxVy x y => wordXYN 0x9 x y 0x0
  | .ldI nnn => wordNNN 0xA nnn
  | .jpV0 nnn => wordNNN 0xB nnn
  | .rnd x kk => wordXKK 0xC x kk
  | .drw x y n => wordXYN 0xD x y n
  | .skp x => wordXKK 0xE x 0x9E
  | .sknp x => wordXKK 0xE x 0xA1
  | .ldVxDt x => wordXKK 0xF x 0x07
  | .ldVxK x => wordXKK 0xF x 0x0A
  | .ldDtVx x => wordXKK 0xF x 0x15
  | .ldStVx x => wordXKK 0xF x 0x18
  | .addIVx x => wordXKK 0xF x 0x1E
  | .ldFVx x => wordXKK 0xF x 0x29
  | .ldBVx x => wordXKK 0xF x 0x33
  | .ldMiVx x => wordXKK 0xF x 0x55
  | .ldVxMi x => wordXKK 0xF x 0x65

/-- The two bytes of an instruction, in the order of their addresses (R90). -/
def encodeBytes (i : Instr) : List Byte := [wordHi (encode i), wordLo (encode i)]

/-- The `mask` column of R95. -/
def maskOf : Instr → Word
  | .cls | .ret => 0xFFFF
  | .sys _ | .jp _ | .call _ | .seVxKk _ _ | .sneVxKk _ _ | .ldVxKk _ _ | .addVxKk _ _ | .ldI _ | .jpV0 _
  | .rnd _ _ | .drw _ _ _ => 0xF000
  | .seVxVy _ _ | .ldVxVy _ _ | .or _ _ | .and _ _ | .xor _ _ | .addVxVy _ _ | .sub _ _ | .shr _ _ | .subn _ _
  | .shl _ _ | .sneVxVy _ _ => 0xF00F
  | .skp _ | .sknp _ | .ldVxDt _ | .ldVxK _ | .ldDtVx _ | .ldStVx _ | .addIVx _ | .ldFVx _ | .ldBVx _ | .ldMiVx _
  | .ldVxMi _ => 0xF0FF

/-- The `match` column of R95. -/
def matchOf : Instr → Word
  | .cls => 0x00E0
  | .ret => 0x00EE
  | .sys _ => 0x0000
  | .jp _ => 0x1000
  | .call _ => 0x2000
  | .seVxKk _ _ => 0x3000
  | .sneVxKk _ _ => 0x4000
  | .seVxVy _ _ => 0x5000
  | .ldVxKk _ _ => 0x6000
  | .addVxKk _ _ => 0x7000
  | .ldVxVy _ _ => 0x8000
  | .or _ _ => 0x8001
  | .and _ _ => 0x8002
  | .xor _ _ => 0x8003
  | .addVxVy _ _ => 0x8004
  | .sub _ _ => 0x8005
  | .shr _ _ => 0x8006
  | .subn _ _ => 0x8007
  | .shl _ _ => 0x800E
  | .sneVxVy _ _ => 0x9000
  | .ldI _ => 0xA000
  | .jpV0 _ => 0xB000
  | .rnd _ _ => 0xC000
  | .drw _ _ _ => 0xD000
  | .skp _ => 0xE09E
  | .sknp _ => 0xE0A1
  | .ldVxDt _ => 0xF007
  | .ldVxK _ => 0xF00A
  | .ldDtVx _ => 0xF015
  | .ldStVx _ => 0xF018
  | .addIVx _ => 0xF01E
  | .ldFVx _ => 0xF029
  | .ldBVx _ => 0xF033
  | .ldMiVx _ => 0xF055
  | .ldVxMi _ => 0xF065

/-! ### The opcode table's numbering of bits -/

/-- The instruction word of a row's bits: bit 0 is the least significant bit of the word, and every bit at or above
`nbits` is 0. -/
def tableWord (nbits w : Nat) : Word := BitVec.ofNat 16 (w % 2 ^ nbits)

/-- What the decoder reads from the bits `w` of a row of spec/opcode_table.json, laid out as two bytes, high byte
first (R90). -/
def decodeTableWord (nbits w : Nat) : Option Instr :=
  match decode [wordHi (tableWord nbits w), wordLo (tableWord nbits w)] with
  | .ok (i, _) => some i
  | .error _ => none

end Sys2Proof
end

