-- ==== Sys2Proof/Config.lean ====
section
/-! DEFINITION. The parameters of the machine (00_scope.md R6, R7) and its free inputs: the environment's events and the
inputs of a cycle (10_state.md R44, 40_execution_cycle.md R120, R131). A constant marked `opaque` has no body: nothing
can evaluate it, so a theorem holds for every value of it. -/

namespace Sys2Proof

/-- The inputs of one engine cycle (R131): the 16 key levels, of which Ex9E and ExA1 sample one, and the byte Cxkk
draws. No law binds either (R44, R172). -/
structure CycleInputs where
  /-- `key_down(k)`, bit `k`: whether key `k` is held (R44, R236). -/
  keyDown : BitVec 16
  /-- The byte delivered by the random source (R44, R172). -/
  rnd : Byte
deriving DecidableEq, Repr, Inhabited

/-- The events that take steps (R120), one constructor per row of its table. DESIGN CHOICE (log 1): the environment
lists them, and an event that is not enabled changes nothing (log 4). Safe. -/
inductive Event where
  /-- The execution engine's turn: one cycle with these inputs (R121, R131). -/
  | cycle (inputs : CycleInputs)
  /-- The timer controller's tick (R266). -/
  | tick
  /-- The key event `k`, 0 to 15, of the input collaborator (R232). -/
  | key (k : BitVec 4)
  /-- The stop signal, taken at a boundary or in a key wait (R129, R263; log 3). -/
  | stop
  /-- The host's reset with a ROM (R290). -/
  | reset (rom : List Byte)
deriving DecidableEq, Repr, Inhabited

/-- The free value behind `TICK_SCHEDULE`, `KEYS`, `STOP`, `RND` and the host's resets (R7; D7, D8, D10, D14): the event
that comes when none is listed in the state. No body: every interleaving is admitted (R120, R267; log 1). Safe. -/
opaque Config.environment : Nat → Event

/-- `SYS_NOP_SET` (R7, R141, D1): whether SYS with this operand is a no-op. The source never says which class 0x0 words
are; no body (log 6). Safe. -/
opaque Config.sysNop : Addr12 → Bool

/-- `V_RESET` (R7, R46). DESIGN CHOICE (log 7): the spec's default. Unsafe. -/
def Config.vReset : Vector Byte 16 := Vector.replicate 16 0#8

/-- `I_RESET` (R7, R46). DESIGN CHOICE (log 7). Unsafe. -/
def Config.iReset : Word := 0#16

/-- `DT_RESET` (R7, R46). DESIGN CHOICE (log 7). Unsafe. -/
def Config.dtReset : Byte := 0#8

/-- `ST_RESET` (R7, R46). DESIGN CHOICE (log 7). Unsafe. -/
def Config.stReset : Byte := 0#8

/-- `STACK_RESET` (R7, R46). DESIGN CHOICE (log 7); a program cannot see it (R46). Unsafe. -/
def Config.stackReset : Vector Word 16 := Vector.replicate 16 0#16

end Sys2Proof
end

