-- ==== Sys2Proof/Machine/State.lean ====
section
/-! DEFINITION. The state of the machine (10_state.md R20 to R35), the reasons a step can stop, and the state after reset
(R46). State is plain data. -/

namespace Sys2Proof.Machine

/-- The run state RUN (R31). -/
inductive RunState where
  /-- Executing, or in a key wait. -/
  | running
  /-- Terminal: only a reset leaves it (R261). -/
  | halted
deriving DecidableEq, Repr

/-- The cause latch CAUSE (R32, R257). -/
inductive Cause where
  /-- Not halted. -/
  | none
  /-- The stop signal; the clean end of a run (R263). -/
  | stop
  /-- An Illegal word, or a SYS word outside `SYS_NOP_SET`, was dispatched (R251). -/
  | unsupportedOpcode
  /-- 2nnn with a full stack (R252). -/
  | stackOverflow
  /-- `Pop` on an empty stack; raised by no instruction (R253). -/
  | stackUnderflow
  /-- 00EE with an empty stack (R254). -/
  | returnWithEmptyStack
  /-- A reset with a ROM of more than 3584 bytes (R255, R296). -/
  | romTooLarge
  /-- A register number above 15; raised by nothing (R256). -/
  | invalidRegister
deriving DecidableEq, Repr

/-- The key-wait substate WAIT (R35). -/
inductive Wait where
  /-- No key wait. -/
  | none
  /-- Suspended inside Fx0A: the key number goes to register `r` (R232). -/
  | waitKey (r : Reg)
deriving DecidableEq, Repr

/-- The framebuffer: 32 rows of 64 pixels (R33, R210). -/
abbrev Framebuffer := Vector (Vector Bool 64) 32

/-- Memory (R34, R60): the cells that differ from the reset contents, addresses strictly rising (Machine/Memory.lean). -/
abbrev Memory := List Host.Cell

/-- Every piece of state the spec gives the machine, then the model's own record of inputs and outputs. -/
structure State where
  /-- V0 to VF (R20). -/
  v : Vector Byte 16
  /-- The index register I (R24). -/
  i : Word
  /-- The program counter PC (R25). -/
  pc : Word
  /-- SP: the number of stack entries held, 0 to 16 (R27). -/
  sp : Fin 17
  /-- STACK: 16 return addresses (R27). -/
  stack : Vector Word 16
  /-- The delay timer DT (R30). -/
  dt : Byte
  /-- The sound timer ST (R30). -/
  st : Byte
  /-- RUN (R31). -/
  run : RunState
  /-- CAUSE (R32). -/
  cause : Cause
  /-- INFO (R32). -/
  info : Word
  /-- WAIT (R35). -/
  wait : Wait
  /-- The framebuffer FB (R33). -/
  fb : Framebuffer
  /-- The memory MEM (R34). -/
  mem : Memory
  /-- Output: the grids of the Present events since the last reset, newest first (R45, R216; log 18). -/
  presents : List Framebuffer
  /-- Input: what the cycle now running samples (R44, R131; log 2). -/
  inputs : CycleInputs
  /-- Input: the environment's events still to come, oldest first (R120; log 1). -/
  pending : List Event
  /-- Input: how many events have been taken from `Config.environment` (log 1). -/
  drawn : Nat
deriving DecidableEq, Repr

/-- Why a step could end in a fault: there is no such reason. The list of fatal conditions is closed (R250) and each of
them leaves the machine in a state the spec describes, Halted with a cause (R258, R259), so it is a next state
(log 5). -/
inductive Fault
deriving DecidableEq, Repr

/-- Why an instruction could be refused. -/
inductive Refusal where
  /-- Raised by an arm of `exec` whose instruction has no meaning yet; no arm does. Safe. -/
  | notModelled (mnemonic : String)
deriving DecidableEq, Repr

/-- What a meaning and a step answer. -/
abbrev Result := Host.Outcome State Fault Refusal

/-- All 2048 pixels 0 (R33, R211). -/
def Framebuffer.clear : Framebuffer := Vector.replicate 32 (Vector.replicate 64 false)

/-- The machine right after reset, with the ROM of length 0 (R46, R290, R295; log 10). The registers the source gives no
reset value for hold the spec's defaults (log 7); memory lists nothing, so it reads as its reset contents (log 8). -/
def State.reset : State where
  v := Config.vReset
  i := Config.iReset
  pc := 0x0200#16
  sp := 0
  stack := Config.stackReset
  dt := Config.dtReset
  st := Config.stReset
  run := .running
  cause := .none
  info := 0#16
  wait := .none
  fb := Framebuffer.clear
  mem := []
  presents := []
  inputs := { keyDown := 0#16, rnd := 0#8 }
  pending := []
  drawn := 0

end Sys2Proof.Machine
end

