-- ==== Sys2Proof/Machine/Memory.lean ====
section
/-! DEFINITION. The memory MEM and its two access primitives (20_memory.md R60 to R66): one flat space of 4096 bytes, every
address reduced modulo 4096. -/

namespace Sys2Proof.Machine

/-- `FONT_TABLE` (R7, R294): glyphs 0 to F, five row bytes each, top row first (R293). PRESUMED (log 9): the source gives
only "standard hex-digit patterns"; the spec takes these bytes from general knowledge. Unsafe. -/
def fontTable : List Byte :=
  [0xF0#8, 0x90#8, 0x90#8, 0x90#8, 0xF0#8] ++ [0x20#8, 0x60#8, 0x20#8, 0x20#8, 0x70#8] ++
  [0xF0#8, 0x10#8, 0xF0#8, 0x80#8, 0xF0#8] ++ [0xF0#8, 0x10#8, 0xF0#8, 0x10#8, 0xF0#8] ++
  [0x90#8, 0x90#8, 0xF0#8, 0x10#8, 0x10#8] ++ [0xF0#8, 0x80#8, 0xF0#8, 0x10#8, 0xF0#8] ++
  [0xF0#8, 0x80#8, 0xF0#8, 0x90#8, 0xF0#8] ++ [0xF0#8, 0x10#8, 0x20#8, 0x40#8, 0x40#8] ++
  [0xF0#8, 0x90#8, 0xF0#8, 0x90#8, 0xF0#8] ++ [0xF0#8, 0x90#8, 0xF0#8, 0x10#8, 0xF0#8] ++
  [0xF0#8, 0x90#8, 0xF0#8, 0x90#8, 0x90#8] ++ [0xE0#8, 0x90#8, 0xE0#8, 0x90#8, 0xE0#8] ++
  [0xF0#8, 0x80#8, 0x80#8, 0x80#8, 0xF0#8] ++ [0xE0#8, 0x90#8, 0x90#8, 0x90#8, 0xE0#8] ++
  [0xF0#8, 0x80#8, 0xF0#8, 0x80#8, 0xF0#8] ++ [0xF0#8, 0x80#8, 0xF0#8, 0x80#8, 0x80#8]

/-- `MEM_FILL` (R7, R46): memory outside the font and the ROM at reset. DESIGN CHOICE (log 8): the spec's default.
Unsafe. -/
def memFill : Byte := 0x00#8

/-- What an unlisted address below 4096 reads as: the reset contents with the ROM of length 0 (R46, R66). -/
def Memory.resetByte (a : Nat) : Byte := fontTable.getD a memFill

/-- The byte a list of cells holds for address `a`, already reduced. -/
def Memory.lookup (a : Nat) : Memory → Byte
  | [] => Memory.resetByte a
  | (b, v) :: m => if a = b then v else Memory.lookup a m

/-- Put byte `v` at address `a`, already reduced: the cell goes to its place in the rising order, and a byte equal to
the reset contents is not listed. -/
def Memory.insert (a : Nat) (v : Byte) : Memory → Memory
  | [] => if v = Memory.resetByte a then [] else [(a, v)]
  | (b, w) :: m =>
    if a < b then (if v = Memory.resetByte a then (b, w) :: m else (a, v) :: (b, w) :: m)
    else if a = b then (if v = Memory.resetByte a then m else (a, v) :: m)
    else (b, w) :: Memory.insert a v m

/-- `MemRead(addr, 1)` (R61): the byte at `addr mod 4096`; no fault and no side effect. -/
def Memory.read (m : Memory) (addr : Nat) : Byte := Memory.lookup (addr % 4096) m

/-- `MemWrite(addr, 1, v)` (R62): the byte at `addr mod 4096` becomes `v`; every cell is writable (R75; log 17). -/
def Memory.write (m : Memory) (addr : Nat) (v : Byte) : Memory := Memory.insert (addr % 4096) v m

/-- Bytes written at `addr`, `addr + 1`, ..., each address reduced on its own (R65, R190). -/
def Memory.writeBytes (m : Memory) (addr : Nat) : List Byte → Memory
  | [] => m
  | v :: vs => Memory.writeBytes (Memory.write m addr v) (addr + 1) vs

/-- The `n` bytes read at `addr`, `addr + 1`, ..., each address reduced on its own (R65, R190). -/
def Memory.readBytes (m : Memory) (addr n : Nat) : List Byte :=
  (List.range n).map fun k => Memory.read m (addr + k)

/-- The canonical form from address `lo` on: addresses strictly rising from at least `lo`, all below 4096, and no cell
equal to the reset contents. -/
def Memory.wfFrom (lo : Nat) : Memory → Bool
  | [] => true
  | (a, v) :: m =>
    decide (lo ≤ a) && decide (a < 4096) && decide (v ≠ Memory.resetByte a) && Memory.wfFrom (a + 1) m

/-- The canonical form of memory. -/
def Memory.wf (m : Memory) : Bool := Memory.wfFrom 0 m

end Sys2Proof.Machine
end

