-- ==== Sys2Proof/Machine/Ops.lean ====
section
/-! DEFINITION. The named operations over the state: registers (R20), PC (R122, R140), the call stack (R28, R29), raising
a fatal condition (R258), the instruction fetch (R63, R122), the Present output (R216) and the environment's events
(R120; log 1). Every other file reads and writes the state through these. -/

namespace Sys2Proof.Machine

/-! ### General registers (R20) -/

/-- `V[x]` (R10, R20). -/
def State.reg (s : State) (x : Reg) : Byte := s.v[x.toNat]'x.isLt

/-- `V[x] <- b` (R10, R20): an ordinary register, none is hardwired. -/
def State.setReg (s : State) (x : Reg) (b : Byte) : State := { s with v := s.v.set x.toNat b x.isLt }

/-! ### Special registers (R24, R25, R30, R35) -/

/-- `I <- a` (R24). -/
def State.setI (s : State) (a : Word) : State := { s with i := a }

/-- `pc <- target` (R10, R25). -/
def State.setPc (s : State) (target : Word) : State := { s with pc := target }

/-- `DT <- b` (R30). -/
def State.setDt (s : State) (b : Byte) : State := { s with dt := b }

/-- `ST <- b` (R30). -/
def State.setSt (s : State) (b : Byte) : State := { s with st := b }

/-- `WAIT <- w` (R35). -/
def State.setWait (s : State) (w : Wait) : State := { s with wait := w }

/-- The memory after an instruction's stores (R62). -/
def State.setMem (s : State) (m : Memory) : State := { s with mem := m }

/-! ### PC (R122, R140) -/

/-- PC plus 2, modulo 65536: the advance of the fetch step (R122) and the extra advance of a skip (R140; log 12). -/
def State.advancePc (s : State) : State := s.setPc (s.pc + 2#16)

/-- `if c then skip` (R140). -/
def State.skipIf (c : Bool) (s : State) : State := if c then s.advancePc else s

/-! ### Fatal conditions (R258) -/

/-- `raise F(info)`, the one trap entry of the machine (R258): CAUSE and INFO are latched and the engine halts; nothing
else changes (R259; log 16). There is no return from it but reset (R261). -/
def State.raise (s : State) (cause : Cause) (info : Word) : State :=
  { s with cause := cause, info := info, run := .halted }

/-! ### The call stack (R27 to R29; log 13) -/

/-- `Push(a)` (R28): none where the stack is full, which raises StackOverflow; nothing is changed then. -/
def State.push (s : State) (a : Word) : Option State :=
  if h : s.sp.val < 16 then
    some { s with stack := s.stack.set s.sp.val a h, sp := ⟨s.sp.val + 1, Nat.succ_lt_succ h⟩ }
  else none

/-- `Pop()` (R29): the popped address and the state after it; none where the stack is empty, which raises
StackUnderflow. The popped entry keeps its contents. -/
def State.pop (s : State) : Option (Word × State) :=
  if h : 0 < s.sp.val then
    have h' : s.sp.val - 1 < 16 := by have := s.sp.isLt; omega
    some (s.stack[s.sp.val - 1], { s with sp := ⟨s.sp.val - 1, Nat.lt_succ_of_lt h'⟩ })
  else none

/-! ### Fetch (R63, R122) -/

/-- `MemRead(PC, 2)`: the byte at `PC mod 4096` is bits 15:8, the byte at `(PC + 1) mod 4096` bits 7:0 (R63). -/
def State.fetchWord (s : State) : Word :=
  wordOfBytes (Memory.read s.mem s.pc.toNat) (Memory.read s.mem (s.pc.toNat + 1))

/-! ### Present (R216) -/

/-- The framebuffer after a completed 00E0 or Dxyn, and the one Present event that carries it (R216; log 18). -/
def State.present (s : State) (fb : Framebuffer) : State := { s with fb := fb, presents := fb :: s.presents }

/-! ### The environment (R44, R120; log 1, log 2) -/

/-- The event that takes the next step: the oldest one listed, or the environment's free choice when none is. -/
def State.nextEvent (s : State) : Event :=
  match s.pending with
  | e :: _ => e
  | [] => Config.environment s.drawn

/-- The state once its next event has been taken from the list, or from the environment. -/
def State.takeEvent (s : State) : State :=
  match s.pending with
  | _ :: es => { s with pending := es }
  | [] => { s with drawn := s.drawn + 1 }

/-- The inputs a cycle samples become the ones its instruction sees (R131). -/
def State.latch (s : State) (inputs : CycleInputs) : State := { s with inputs := inputs }

end Sys2Proof.Machine
end

