-- ==== Sys2Proof/Machine/Operands.lean ====
section
/-! DEFINITION. The operand forms: immediates (R93), effective addresses (R190), jump targets (R145), key numbers (R236),
decimal digits (R194), glyph addresses (R193), sprite rows (R213) and register blocks (R195, R196). -/

namespace Sys2Proof.Machine

/-- `nnn` zero-extended to 16 bits (R93). -/
def addrImm (nnn : Addr12) : Word := nnn.setWidth 16

/-- The effective address `I + k` of the `k`-th data byte of an instruction (R190), before the reduction modulo 4096
that `Memory.read` and `Memory.write` make. -/
def State.effAddr (s : State) (k : Nat) : Nat := s.i.toNat + k

/-- `(nnn + V[0]) mod 4096`, the target of Bnnn (R145). -/
def State.jumpTargetV0 (s : State) (nnn : Addr12) : Word :=
  BitVec.ofNat 16 ((nnn.toNat + (s.reg 0#4).toNat) % 4096)

/-- `(I + V[x]) mod 4096`, the value Fx1E stores (R192). -/
def State.indexSum (s : State) (x : Reg) : Word := BitVec.ofNat 16 ((s.i.toNat + (s.reg x).toNat) % 4096)

/-- `FONT_BASE + 5 * V[x]`, on all 8 bits of `V[x]` (R193; log 22). -/
def State.glyphAddr (s : State) (x : Reg) : Word := BitVec.ofNat 16 (5 * (s.reg x).toNat)

/-- The key a skip asks about: the low nibble of `V[x]` (R236; log 14). -/
def State.keyNumber (s : State) (x : Reg) : BitVec 4 := BitVec.ofNat 4 ((s.reg x).toNat % 16)

/-- `KeyDown(k)` as sampled by the cycle now running (R44, R236). -/
def State.keyDown (s : State) (k : BitVec 4) : Bool := s.inputs.keyDown.getLsbD k.toNat

/-- The hundreds, tens and ones digits of a byte (R194). -/
def bcdDigits (a : Byte) : List Byte :=
  [BitVec.ofNat 8 (a.toNat / 100), BitVec.ofNat 8 (a.toNat / 10 % 10), BitVec.ofNat 8 (a.toNat % 10)]

/-- `V[0]` to `V[x]`, both ends included (R195). -/
def State.regBlock (s : State) (x : Reg) : List Byte :=
  (List.range (x.toNat + 1)).map fun k => s.reg (BitVec.ofNat 4 k)

/-- `V[k] <- MemRead(I + k, 1)` for `k` from 0 to `x`; the registers above `x` are kept (R196). -/
def State.loadRegBlock (s : State) (x : Reg) : State :=
  { s with v := Vector.ofFn fun k : Fin 16 =>
      if k.val ≤ x.toNat then Memory.read s.mem (s.effAddr k.val) else s.v[k] }

/-- The `n` sprite rows at `I`, top row first (R213, R214). -/
def State.spriteRows (s : State) (n : Nibble) : List Byte := Memory.readBytes s.mem (s.effAddr 0) n.toNat

end Sys2Proof.Machine
end

