-- ==== Sys2Proof/Machine/Flags.lean ====
section
/-! DEFINITION. The flag computations (10_state.md R22, R23; 42_alu.md R160) and the two orders in which a result and VF
are written (40_execution_cycle.md R126). -/

namespace Sys2Proof.Machine

/-- A flag value is the byte 0x01 or 0x00 (R22, R160). -/
def flagByte (b : Bool) : Byte := if b then 0x01#8 else 0x00#8

/-- Carry: the mathematical sum exceeds 255 (R160). -/
def carry (a b : Byte) : Bool := decide (255 < a.toNat + b.toNat)

/-- No borrow from `a - b`: the minuend is at least the subtrahend (R160). -/
def noBorrow (a b : Byte) : Bool := decide (b.toNat ≤ a.toNat)

/-- `(a + b) mod 256` (R160). -/
def addBytes (a b : Byte) : Byte := BitVec.ofNat 8 ((a.toNat + b.toNat) % 256)

/-- `(a - b) mod 256` (R160). -/
def subBytes (a b : Byte) : Byte := BitVec.ofInt 8 (((a.toNat : Int) - (b.toNat : Int)) % 256)

/-- `a >> 1`; bit 7 of the result is 0 (R169). -/
def shiftRight1 (a : Byte) : Byte := BitVec.ofNat 8 (a.toNat / 2)

/-- `(a << 1) mod 256`; bit 0 of the result is 0 (R171). -/
def shiftLeft1 (a : Byte) : Byte := BitVec.ofNat 8 (a.toNat * 2 % 256)

/-- The bit a right shift by one drops, `a[0]` (R169). -/
def bitOutRight (a : Byte) : Bool := a.getLsbD 0

/-- The bit a left shift by one drops, `a[7]` (R171). -/
def bitOutLeft (a : Byte) : Bool := a.getLsbD 7

/-- The result is written, then VF (R126: 7xkk, 8xy4, 8xy5, 8xy7; log 11): with `x = 15` the flag stands. -/
def State.resultThenFlag (s : State) (x : Reg) (result : Byte) (flag : Bool) : State :=
  (s.setReg x result).setReg VF (flagByte flag)

/-- VF is written, then the result (R126: 8xy6, 8xyE; log 11): with `x = 15` the result stands. -/
def State.flagThenResult (s : State) (x : Reg) (result : Byte) (flag : Bool) : State :=
  (s.setReg VF (flagByte flag)).setReg x result

end Sys2Proof.Machine
end

