-- ==== Sys2Proof/Machine/Alu.lean ====
section
/-! DEFINITION. The register and ALU instructions (42_alu.md). Operands are read before any write (R126). -/

namespace Sys2Proof.Machine

/-- 6xkk LD_VX_KK (R161). -/
def execLdVxKk (x : Reg) (kk : Byte) (s : State) : Result := .next (s.setReg x kk)

/-- 7xkk ADD_VX_KK (R162): VF is always written with the carry, after the result. -/
def execAddVxKk (x : Reg) (kk : Byte) (s : State) : Result :=
  .next (s.resultThenFlag x (addBytes (s.reg x) kk) (carry (s.reg x) kk))

/-- 8xy0 LD_VX_VY (R163). -/
def execLdVxVy (x y : Reg) (s : State) : Result := .next (s.setReg x (s.reg y))

/-- 8xy1 OR (R164): no flag. -/
def execOr (x y : Reg) (s : State) : Result := .next (s.setReg x (s.reg x ||| s.reg y))

/-- 8xy2 AND (R165): no flag. -/
def execAnd (x y : Reg) (s : State) : Result := .next (s.setReg x (s.reg x &&& s.reg y))

/-- 8xy3 XOR (R166): no flag. -/
def execXor (x y : Reg) (s : State) : Result := .next (s.setReg x (s.reg x ^^^ s.reg y))

/-- 8xy4 ADD_VX_VY (R167). -/
def execAddVxVy (x y : Reg) (s : State) : Result :=
  .next (s.resultThenFlag x (addBytes (s.reg x) (s.reg y)) (carry (s.reg x) (s.reg y)))

/-- 8xy5 SUB (R168): minuend `V[x]`. -/
def execSub (x y : Reg) (s : State) : Result :=
  .next (s.resultThenFlag x (subBytes (s.reg x) (s.reg y)) (noBorrow (s.reg x) (s.reg y)))

/-- 8xy6 SHR (R169): `V[x]` is shifted in place, `V[y]` is neither read nor written; VF is written first. -/
def execShr (x _y : Reg) (s : State) : Result :=
  .next (s.flagThenResult x (shiftRight1 (s.reg x)) (bitOutRight (s.reg x)))

/-- 8xy7 SUBN (R170): minuend `V[y]`. -/
def execSubn (x y : Reg) (s : State) : Result :=
  .next (s.resultThenFlag x (subBytes (s.reg y) (s.reg x)) (noBorrow (s.reg y) (s.reg x)))

/-- 8xyE SHL (R171): `V[x]` is shifted in place, `V[y]` is neither read nor written; VF is written first. -/
def execShl (x _y : Reg) (s : State) : Result :=
  .next (s.flagThenResult x (shiftLeft1 (s.reg x)) (bitOutLeft (s.reg x)))

/-- Cxkk RND (R172): the byte drawn is the cycle's free input (log 2). -/
def execRnd (x : Reg) (kk : Byte) (s : State) : Result := .next (s.setReg x (s.inputs.rnd &&& kk))

end Sys2Proof.Machine
end

