-- ==== Sys2Proof/Machine/Control.lean ====
section
/-! DEFINITION. The control transfer instructions (41_control_flow.md). `s.pc` is the post-fetch PC (R122). -/

namespace Sys2Proof.Machine

/-- 00EE RET (R142): ReturnWithEmptyStack where SP is 0, else PC is the popped entry, all 16 bits. The branch in which
`Pop` itself fails (R29, R253) is never taken, since SP is not 0 there. -/
def execRet (s : State) : Result :=
  if s.sp = 0 then .next (s.raise .returnWithEmptyStack 0#16)
  else match s.pop with
    | some (a, t) => .next (t.setPc a)
    | none => .next (s.raise .stackUnderflow 0#16)

/-- 0nnn SYS (R141): a no-op where the operand is in `SYS_NOP_SET`, else UnsupportedOpcode with the word as INFO
(R251; log 6). -/
def execSys (nnn : Addr12) (s : State) : Result :=
  .next (if Config.sysNop nnn then s else s.raise .unsupportedOpcode (encode (.sys nnn)))

/-- 1nnn JP (R143). -/
def execJp (nnn : Addr12) (s : State) : Result := .next (s.setPc (addrImm nnn))

/-- 2nnn CALL (R144): the full post-fetch PC is pushed; StackOverflow where SP is 16, INFO the value that could not be
pushed (R252), and PC is then not set. -/
def execCall (nnn : Addr12) (s : State) : Result :=
  match s.push s.pc with
  | some t => .next (t.setPc (addrImm nnn))
  | none => .next (s.raise .stackOverflow s.pc)

/-- Bnnn JP_V0 (R145): always register 0, and the sum is reduced modulo 4096. -/
def execJpV0 (nnn : Addr12) (s : State) : Result := .next (s.setPc (s.jumpTargetV0 nnn))

/-- 3xkk SE_VX_KK (R146). -/
def execSeVxKk (x : Reg) (kk : Byte) (s : State) : Result := .next (s.skipIf (decide (s.reg x = kk)))

/-- 4xkk SNE_VX_KK (R147). -/
def execSneVxKk (x : Reg) (kk : Byte) (s : State) : Result := .next (s.skipIf (decide (s.reg x ≠ kk)))

/-- 5xy0 SE_VX_VY (R148). -/
def execSeVxVy (x y : Reg) (s : State) : Result := .next (s.skipIf (decide (s.reg x = s.reg y)))

/-- 9xy0 SNE_VX_VY (R149). -/
def execSneVxVy (x y : Reg) (s : State) : Result := .next (s.skipIf (decide (s.reg x ≠ s.reg y)))

end Sys2Proof.Machine
end

