-- ==== Sys2Proof/Machine/Display.lean ====
section
/-! DEFINITION. The XOR-blit engine and the display instructions (44_display.md). -/

namespace Sys2Proof.Machine

/-- `FB[r][c]` (R10, R33). -/
def Framebuffer.pixel (fb : Framebuffer) (r : Fin 32) (c : Fin 64) : Bool := fb[r][c]

/-- `FB[r][c] <- FB[r][c] ^ 1` (R212). -/
def Framebuffer.toggle (fb : Framebuffer) (r : Fin 32) (c : Fin 64) : Framebuffer :=
  fb.set r (fb[r].set c (!fb[r][c]))

/-- The framebuffer and the collision bit a blit works on (R212). -/
structure BlitState where
  fb : Framebuffer
  collided : Bool
deriving DecidableEq, Repr

/-- Row `n mod 32` (R212). -/
def rowOf (n : Nat) : Fin 32 := Fin.ofNat 32 n

/-- Column `n mod 64` (R212). -/
def colOf (n : Nat) : Fin 64 := Fin.ofNat 64 n

/-- Bit `7 - j` of a sprite byte, the pixel at column offset `j` (R214; PRESUMED, log 15). -/
def spriteBit (row : Byte) (j : Nat) : Bool := row.getLsbD (7 - j)

/-- One source bit: where it is 1 the pixel is toggled, and a pixel that was 1 collides (R212). -/
def BlitState.bit (b : BlitState) (y x : Nat) (row : Byte) (j : Nat) : BlitState :=
  if spriteBit row j then
    { fb := b.fb.toggle (rowOf y) (colOf (x + j))
      collided := b.collided || b.fb.pixel (rowOf y) (colOf (x + j)) }
  else b

/-- One sprite row at row `y`: `j` from 0 to 7 (R212). -/
def BlitState.row (b : BlitState) (y x : Nat) (row : Byte) : BlitState :=
  (List.range 8).foldl (fun b j => b.bit y x row j) b

/-- The sprite rows from row `y` downwards (R212). -/
def BlitState.rows (b : BlitState) (y x : Nat) : List Byte → BlitState
  | [] => b
  | row :: rest => BlitState.rows (b.row y x row) (y + 1) x rest

/-- `Blit(x0, y0, rows)` (R212): the framebuffer after it and the collision bit; nothing is clipped. -/
def blit (fb : Framebuffer) (x0 y0 : Nat) (rows : List Byte) : BlitState :=
  BlitState.rows { fb := fb, collided := false } y0 x0 rows

/-- 00E0 CLS (R211): every pixel 0, and one Present. -/
def execCls (s : State) : Result := .next (s.present Framebuffer.clear)

/-- Dxyn DRW (R213): the coordinates are the old register values, all 8 bits (log 23); VF is the collision bit; one
Present. -/
def execDrw (x y : Reg) (n : Nibble) (s : State) : Result :=
  let b := blit s.fb (s.reg x).toNat (s.reg y).toNat (s.spriteRows n)
  .next ((s.setReg VF (flagByte b.collided)).present b.fb)

end Sys2Proof.Machine
end

