-- ==== Sys2Proof/Machine/Index.lean ====
section
/-! DEFINITION. The index register and memory instructions (43_index_memory.md). None writes a flag, and no load or store
changes I (R190; log 21). -/

namespace Sys2Proof.Machine

/-- Annn LD_I (R191). -/
def execLdI (nnn : Addr12) (s : State) : Result := .next (s.setI (addrImm nnn))

/-- Fx1E ADD_I_VX (R192): the stored sum is reduced modulo 4096; VF is not written (log 21). -/
def execAddIVx (x : Reg) (s : State) : Result := .next (s.setI (s.indexSum x))

/-- Fx29 LD_F_VX (R193): the address of glyph `V[x]`, on all 8 bits (log 22). -/
def execLdFVx (x : Reg) (s : State) : Result := .next (s.setI (s.glyphAddr x))

/-- Fx33 LD_B_VX (R194): the three decimal digits at `I`, `I + 1`, `I + 2`. -/
def execLdBVx (x : Reg) (s : State) : Result :=
  .next (s.setMem (Memory.writeBytes s.mem (s.effAddr 0) (bcdDigits (s.reg x))))

/-- Fx55 LD_MI_VX (R195): `V[0]` to `V[x]` at `I` to `I + x`. -/
def execLdMiVx (x : Reg) (s : State) : Result :=
  .next (s.setMem (Memory.writeBytes s.mem (s.effAddr 0) (s.regBlock x)))

/-- Fx65 LD_VX_MI (R196): `V[0]` to `V[x]` from `I` to `I + x`. -/
def execLdVxMi (x : Reg) (s : State) : Result := .next (s.loadRegBlock x)

end Sys2Proof.Machine
end

