-- ==== Sys2Proof/Machine/Keypad.lean ====
section
/-! DEFINITION. The keypad and timer instructions (45_keypad_timers.md). -/

namespace Sys2Proof.Machine

/-- Ex9E SKP (R230). -/
def execSkp (x : Reg) (s : State) : Result := .next (s.skipIf (s.keyDown (s.keyNumber x)))

/-- ExA1 SKNP (R231). -/
def execSknp (x : Reg) (s : State) : Result := .next (s.skipIf (!s.keyDown (s.keyNumber x)))

/-- Fx0A LD_VX_K, its first step (R232): the engine waits for a key; `State.keyEvent` is the second (log 26). -/
def execLdVxK (x : Reg) (s : State) : Result := .next (s.setWait (.waitKey x))

/-- Fx07 LD_VX_DT (R233). -/
def execLdVxDt (x : Reg) (s : State) : Result := .next (s.setReg x s.dt)

/-- Fx15 LD_DT_VX (R234). -/
def execLdDtVx (x : Reg) (s : State) : Result := .next (s.setDt (s.reg x))

/-- Fx18 LD_ST_VX (R235). -/
def execLdStVx (x : Reg) (s : State) : Result := .next (s.setSt (s.reg x))

end Sys2Proof.Machine
end

