-- ==== Sys2Proof/Machine/Events.lean ====
section
/-! DEFINITION. The steps that are not engine cycles (40_execution_cycle.md R120): tick (R266), key event (R232), stop
(R263) and reset (R290). Each changes nothing where it is not enabled (R261; log 4). -/

namespace Sys2Proof.Machine

/-- A timer counts down to 0 and stays there (R266). -/
def countDown (t : Byte) : Byte := if 0 < t.toNat then t - 1#8 else t

/-- `tick()` (R266), enabled while RUN is Running, in a key wait too (R268). -/
def State.tick (s : State) : State :=
  if s.run = .running then (s.setDt (countDown s.dt)).setSt (countDown s.st) else s

/-- The key event `k` (R232, step 2): completes a suspended Fx0A; dropped where none waits. -/
def State.keyEvent (s : State) (k : BitVec 4) : State :=
  match s.run, s.wait with
  | .running, .waitKey r => (s.setReg r (k.setWidth 8)).setWait .none
  | .running, .none => s
  | .halted, _ => s

/-- The stop signal (R263), at a boundary or in a key wait; WAIT keeps its value. -/
def State.stopEvent (s : State) : State := if s.run = .running then s.raise .stop 0#16 else s

/-- `reset(ROM)` (R290, R295, R296): the whole machine is created again, in any state, and nothing of it survives. A ROM
of more than 3584 bytes is not loaded and leaves the engine Halted with RomTooLarge (log 19). The environment is outside
the machine and goes on (log 1). -/
def State.boot (s : State) (rom : List Byte) : State :=
  let fresh : State := { State.reset with inputs := s.inputs, pending := s.pending, drawn := s.drawn }
  if 3584 < rom.length then fresh.raise .romTooLarge 0#16
  else fresh.setMem (Memory.writeBytes [] 0x200 rom)

end Sys2Proof.Machine
end

