-- ==== Sys2Proof/Machine/Cycle.lean ====
section
/-! DEFINITION. The engine cycle (40_execution_cycle.md R121 to R123) and what each event does (R120). -/

namespace Sys2Proof.Machine

/-- One engine cycle (R121): fetch at PC, advance PC by 2, decode, execute; an Illegal word raises UnsupportedOpcode with
the word as INFO (R123, R251). The stop signal is an event of its own, which R129 calls the same relation (log 3). -/
def cycle (inputs : CycleInputs) (s : State) : Result :=
  match decodeWord s.fetchWord with
  | .ok i => exec i (s.latch inputs).advancePc
  | .error _ => .next ((s.latch inputs).advancePc.raise .unsupportedOpcode s.fetchWord)

/-- When a cycle is enabled: RUN is Running and WAIT is None (R120, R121). -/
abbrev State.CycleEnabled (s : State) : Prop := s.run = .running ∧ s.wait = .none

/-- The step an event takes (R120). A cycle offered where none is enabled does nothing (log 4). -/
def handle (e : Event) (s : State) : Result :=
  match e with
  | .cycle inputs => if s.CycleEnabled then cycle inputs s else .next s
  | .tick => .next s.tick
  | .key k => .next (s.keyEvent k)
  | .stop => .next s.stopEvent
  | .reset rom => .next (s.boot rom)

/-- The two bytes of a word at PC and PC + 1, each address reduced modulo 4096, high byte first (R63). -/
def State.placeWord (s : State) (w : Word) : State :=
  s.setMem (Memory.writeBytes s.mem s.pc.toNat [wordHi w, wordLo w])

/-- The state in which the next step is a cycle: the engine runs with no key wait, and the first event listed is a cycle
that samples the inputs the state holds (log 10). -/
def State.readyToFetch (s : State) : State :=
  { s with run := .running, cause := .none, info := 0#16, wait := .none, pending := .cycle s.inputs :: s.pending }

end Sys2Proof.Machine
end

