-- ==== Sys2Proof/Machine/Step.lean ====
section
/-! DEFINITION. One step of the machine (40_execution_cycle.md R120): the environment's next event is taken and handled
(log 1). -/

namespace Sys2Proof.Machine

/-- One atomic step (R120). -/
def step (s : State) : Host.Outcome State Fault Refusal := handle s.nextEvent s.takeEvent

/-- The state with the instruction of a table row's bits placed where the next step fetches it, and everything set that
makes the next step that fetch (log 10). -/
def State.withFetchWord (s : State) (nbits w : Nat) : State :=
  (s.placeWord (tableWord nbits w)).readyToFetch

end Sys2Proof.Machine
end

