-- ==== Sys2Proof/Machine/Outputs.lean ====
section
/-! DEFINITION. The outputs that are functions of the state (10_state.md R45): the halt report, the sound level (R269) and
the diagnostics view (R272). The Present events are recorded in `State.presents`. -/

namespace Sys2Proof.Machine

/-- The sound level `ST != 0` (R269; log 28). -/
def State.soundOn (s : State) : Bool := decide (s.st ≠ 0#8)

/-- The output `halted` (R45). -/
def State.isHalted (s : State) : Bool := decide (s.run = .halted)

/-- The numeric cause codes (R257). DESIGN CHOICE of the spec (D13; log 16). -/
def Cause.code : Cause → Nat
  | .none => 0
  | .stop => 1
  | .unsupportedOpcode => 2
  | .stackOverflow => 3
  | .stackUnderflow => 4
  | .returnWithEmptyStack => 5
  | .romTooLarge => 6
  | .invalidRegister => 7

/-- The read-only snapshot of R272, the five parts the spec adds included. -/
structure Diagnostics where
  pc : Word
  sp : Fin 17
  stack : Vector Word 16
  v : Vector Byte 16
  i : Word
  dt : Byte
  st : Byte
  /-- The bytes of memory from `radius` below PC to `radius` above it. -/
  window : List Byte
  fb : Framebuffer
  run : RunState
  cause : Cause
  info : Word
  wait : Wait
deriving DecidableEq, Repr

/-- The diagnostics view; the size of its memory window is not given, so it is an argument (R272, N27; log 27). -/
def State.diagnostics (s : State) (radius : Nat) : Diagnostics where
  pc := s.pc
  sp := s.sp
  stack := s.stack
  v := s.v
  i := s.i
  dt := s.dt
  st := s.st
  window := Memory.readBytes s.mem (s.pc.toNat + 4096 * radius - radius) (2 * radius + 1)
  fb := s.fb
  run := s.run
  cause := s.cause
  info := s.info
  wait := s.wait

end Sys2Proof.Machine
end

