-- ==== Sys2Proof/Safety.lean ====
section
/-! DEFINITION. What counts as a safe run (60_exceptions.md R261), the invariants of the machine (10_state.md R47), and the
words the claims use: frames, sprites and the parts of an instruction that whole-machine rules speak of. -/

namespace Sys2Proof.Machine

/-! ### Safe runs (R250, R261, R312) -/

/-- A fatal condition, as opposed to no halt or a stop (R257). -/
def Cause.fatal : Cause → Bool
  | .none | .stop => false
  | .unsupportedOpcode | .stackOverflow | .stackUnderflow | .returnWithEmptyStack | .romTooLarge | .invalidRegister => true

/-- A state every claim about a program excludes: Halted with a fatal cause (R261). -/
def State.Faulted (s : State) : Prop := s.run = .halted ∧ s.cause.fatal = true

/-- A safe state: running, or cleanly ended by a stop (R261, R263). -/
def State.Safe (s : State) : Prop := ¬ s.Faulted

/-- A run that takes one step after another without ever standing in a faulted state, for `k` steps. -/
def SafeRun : Nat → State → Prop
  | 0, s => s.Safe
  | k + 1, s => s.Safe ∧ ∀ t, step s = .next t → SafeRun k t

/-- Parked: PC holds an address below 4096 at which a jump to itself stands (R311). -/
def State.Parked (s : State) : Prop := s.pc.toNat ≤ 0xFFF ∧ s.fetchWord.toNat = 0x1000 + s.pc.toNat

/-! ### Invariants (R47) -/

/-- CAUSE is None exactly when RUN is Running (R32, R47e). -/
def State.HaltHasCause (s : State) : Prop := s.cause = .none ↔ s.run = .running

/-- INFO is 0 but for the two causes that record a word (R32, R257). -/
def State.InfoMatchesCause (s : State) : Prop :=
  s.cause ≠ .unsupportedOpcode → s.cause ≠ .stackOverflow → s.info = 0#16

/-- The two named conditions nothing raises (R253, R256). -/
def State.CauseIsRaisable (s : State) : Prop := s.cause ≠ .stackUnderflow ∧ s.cause ≠ .invalidRegister

/-- I stays below 4096 (R47c). -/
def State.IndexInRange (s : State) : Prop := s.i.toNat < 4096

/-- WAIT is None in a machine halted by anything but a stop (R47f). -/
def State.WaitEndsAtFault (s : State) : Prop := s.run = .halted → s.cause ≠ .stop → s.wait = .none

/-- The latest Present carries the framebuffer, and before the first the framebuffer is clear (R216). -/
def State.PresentIsCurrent (s : State) : Prop := s.fb = s.presents.head?.getD Framebuffer.clear

/-- Memory keeps its canonical form (the model's own, log 8). -/
def State.MemCanonical (s : State) : Prop := Memory.wf s.mem = true

/-- The invariant of the machine. -/
def State.Inv (s : State) : Prop :=
  s.MemCanonical ∧ s.HaltHasCause ∧ s.InfoMatchesCause ∧ s.CauseIsRaisable ∧ s.IndexInRange ∧ s.WaitEndsAtFault ∧
    s.PresentIsCurrent

/-! ### Frames: what is the same in `s` and `t` -/

/-- Every general register outside `xs` is unchanged. -/
def RegsExcept (xs : List Reg) (s t : State) : Prop := ∀ r, r ∉ xs → t.reg r = s.reg r

/-- Every byte of memory reads as before. -/
def SameMem (s t : State) : Prop := ∀ a, Memory.read t.mem a = Memory.read s.mem a

/-- Every byte outside the `n` bytes at `a` (each address modulo 4096) reads as before. -/
def SameMemOutside (a n : Nat) (s t : State) : Prop :=
  ∀ b, (∀ k < n, b % 4096 ≠ (a + k) % 4096) → Memory.read t.mem b = Memory.read s.mem b

/-- The call stack is unchanged. -/
def SameStack (s t : State) : Prop := t.sp = s.sp ∧ t.stack = s.stack

/-- The timers are unchanged. -/
def SameTimers (s t : State) : Prop := t.dt = s.dt ∧ t.st = s.st

/-- RUN, CAUSE and INFO are unchanged: the instruction raised nothing. -/
def SameRun (s t : State) : Prop := t.run = s.run ∧ t.cause = s.cause ∧ t.info = s.info

/-- The framebuffer is unchanged and nothing was presented. -/
def SameDisplay (s t : State) : Prop := t.fb = s.fb ∧ t.presents = s.presents

/-- The environment's fields are unchanged. -/
def SameInputs (s t : State) : Prop := t.inputs = s.inputs ∧ t.pending = s.pending ∧ t.drawn = s.drawn

/-- Everything but the general registers, I, PC and memory is unchanged. -/
def SameRest (s t : State) : Prop :=
  SameStack s t ∧ SameTimers s t ∧ SameRun s t ∧ t.wait = s.wait ∧ SameDisplay s t ∧ SameInputs s t

/-- Nothing but the general registers in `xs` is changed. -/
def OnlyRegs (xs : List Reg) (s t : State) : Prop :=
  RegsExcept xs s t ∧ t.i = s.i ∧ t.pc = s.pc ∧ SameMem s t ∧ SameRest s t

/-- Nothing but PC is changed. -/
def OnlyPc (s t : State) : Prop := RegsExcept [] s t ∧ t.i = s.i ∧ SameMem s t ∧ SameRest s t

/-- Nothing but I is changed. -/
def OnlyIndex (s t : State) : Prop := RegsExcept [] s t ∧ t.pc = s.pc ∧ SameMem s t ∧ SameRest s t

/-- Nothing but the `n` bytes at `a` is changed. -/
def OnlyMem (a n : Nat) (s t : State) : Prop :=
  RegsExcept [] s t ∧ t.i = s.i ∧ t.pc = s.pc ∧ SameMemOutside a n s t ∧ SameRest s t

/-- Nothing but the environment's list and counter is changed. -/
def OnlyEvents (s t : State) : Prop := t = { s with pending := t.pending, drawn := t.drawn }

/-! ### Parts of an instruction (R21, R23) -/

/-- The register an instruction names as its destination `V[x]`; Fx65 and the flag writes apart (R21). -/
def destReg : Instr → Option Reg
  | .ldVxKk x _ | .addVxKk x _ | .ldVxVy x _ | .or x _ | .and x _ | .xor x _ | .addVxVy x _ | .sub x _ | .shr x _
  | .subn x _ | .shl x _ | .rnd x _ | .ldVxDt x => some x
  | .cls | .ret | .sys _ | .jp _ | .call _ | .seVxKk _ _ | .sneVxKk _ _ | .seVxVy _ _ | .sneVxVy _ _ | .ldI _ | .jpV0 _
  | .drw _ _ _ | .skp _ | .sknp _ | .ldVxK _ | .ldDtVx _ | .ldStVx _ | .addIVx _ | .ldFVx _ | .ldBVx _ | .ldMiVx _
  | .ldVxMi _ => none

/-- The flag of each of the seven instructions that write VF as a side effect, from the values before the instruction
(the table of R23). -/
def flagOf (s : State) : Instr → Option Bool
  | .addVxKk x kk => some (decide ((s.reg x).toNat + kk.toNat > 255))
  | .addVxVy x y => some (decide ((s.reg x).toNat + (s.reg y).toNat > 255))
  | .sub x y => some (decide ((s.reg x).toNat ≥ (s.reg y).toNat))
  | .shr x _ => some ((s.reg x).getLsbD 0)
  | .subn x y => some (decide ((s.reg y).toNat ≥ (s.reg x).toNat))
  | .shl x _ => some ((s.reg x).getLsbD 7)
  | .drw x y n => some (blit s.fb (s.reg x).toNat (s.reg y).toNat (s.spriteRows n)).collided
  | .cls | .ret | .sys _ | .jp _ | .call _ | .seVxKk _ _ | .sneVxKk _ _ | .seVxVy _ _ | .ldVxKk _ _ | .ldVxVy _ _
  | .or _ _ | .and _ _ | .xor _ _ | .sneVxVy _ _ | .ldI _ | .jpV0 _ | .rnd _ _ | .skp _ | .sknp _ | .ldVxDt _ | .ldVxK _
  | .ldDtVx _ | .ldStVx _ | .addIVx _ | .ldFVx _ | .ldBVx _ | .ldMiVx _ | .ldVxMi _ => none

/-- The instructions that set PC themselves: jumps, calls, returns and skips (R26). -/
def setsPc : Instr → Bool
  | .ret | .jp _ | .call _ | .jpV0 _ | .seVxKk _ _ | .sneVxKk _ _ | .seVxVy _ _ | .sneVxVy _ _ | .skp _ | .sknp _ => true
  | .cls | .sys _ | .ldVxKk _ _ | .addVxKk _ _ | .ldVxVy _ _ | .or _ _ | .and _ _ | .xor _ _ | .addVxVy _ _ | .sub _ _
  | .shr _ _ | .subn _ _ | .shl _ _ | .ldI _ | .rnd _ _ | .drw _ _ _ | .ldVxDt _ | .ldVxK _ | .ldDtVx _ | .ldStVx _
  | .addIVx _ | .ldFVx _ | .ldBVx _ | .ldMiVx _ | .ldVxMi _ => false

/-- Calls executed one after another from one state (R304). -/
def callMany : List Addr12 → State → Result
  | [], s => .next s
  | a :: as, s =>
    match exec (.call a) s with
    | .next t => callMany as t
    | .fault r => .fault r
    | .refused r => .refused r

/-! ### Sprites (R212, R214) -/

/-- A 1 bit of the sprite falls on the pixel in row `r`, column `c`: bit `7 - j` of row byte `k` falls on row
`(y0 + k) mod 32` and column `(x0 + j) mod 64`. Written without the blit engine's own words. -/
def SpriteCovers (x0 y0 : Nat) (rows : List Byte) (r : Fin 32) (c : Fin 64) : Prop :=
  ∃ k, ∃ h : k < rows.length, r.val = (y0 + k) % 32 ∧
    ∃ j < 8, c.val = (x0 + j) % 64 ∧ rows[k].toNat.testBit (7 - j) = true

end Sys2Proof.Machine
end

