-- ==== Sys2Proof/Certificates/Slice0/Obligations.lean ====
section
/-! DEFINITION. The statements for the provers, from the numbered rules of the spec. In each statement about `exec`, the PC
of the state given is the post-fetch PC (R122). -/

open Sys2Proof Sys2Proof.Machine

/-! ### Encoding -/

/-- R95: one word of each layout and family, written from the opcode map, decodes to its instruction, and two words are
Illegal. That 0x5121 is Illegal is the spec's decision D2 (log 24). -/
def Obligations.SampleWordsDecode : Prop :=
  decodeWord 0x00E0 = .ok .cls ∧ decodeWord 0x00EE = .ok .ret ∧ decodeWord 0x0123 = .ok (.sys 0x123) ∧
  decodeWord 0x2ABC = .ok (.call 0xABC) ∧ decodeWord 0x3A05 = .ok (.seVxKk 0xA 0x05) ∧
  decodeWord 0x8127 = .ok (.subn 0x1 0x2) ∧ decodeWord 0xC30F = .ok (.rnd 0x3 0x0F) ∧
  decodeWord 0xD5A7 = .ok (.drw 0x5 0xA 0x7) ∧ decodeWord 0xA300 = .ok (.ldI 0x300) ∧
  decodeWord 0xF255 = .ok (.ldMiVx 0x2) ∧ decodeWord 0xE39E = .ok (.skp 0x3) ∧ decodeWord 0xF50A = .ok (.ldVxK 0x5) ∧
  decodeWord 0x5121 = .error .class5 ∧ decodeWord 0x812F = .error .class8

/-- R94, R95: the two bytes of a well-formed instruction, whatever follows them, decode to it, with every operand. -/
def Obligations.DecodeOfEncodeIsIdentity : Prop :=
  ∀ (i : Instr) (rest : List Byte), i.WellFormed → decode (encodeBytes i ++ rest) = .ok (i, rest)

/-- R94, R102: a word that decodes gives a well-formed instruction whose word it is, so no bit is dropped. -/
def Obligations.EncodeOfDecodeIsIdentity : Prop :=
  ∀ (op : Word) (i : Instr), decodeWord op = .ok i → i.WellFormed ∧ encode i = op

/-- R97 to R101: exactly which words are Illegal. The clause for classes 0x5 and 0x9 is the spec's decision D2 (log 24). -/
def Obligations.IllegalWordsAreTheListed : Prop :=
  ∀ op : Word, (∃ e, decodeWord op = .error e) ↔
    (((opClass op).toNat = 0x5 ∨ (opClass op).toNat = 0x9) ∧ (opN op).toNat ≠ 0) ∨
    ((opClass op).toNat = 0x8 ∧ (opN op).toNat ∈ [0x8, 0x9, 0xA, 0xB, 0xC, 0xD, 0xF]) ∨
    ((opClass op).toNat = 0xE ∧ (opKK op).toNat ∉ [0x9E, 0xA1]) ∨
    ((opClass op).toNat = 0xF ∧ (opKK op).toNat ∉ [0x07, 0x0A, 0x15, 0x18, 0x1E, 0x29, 0x33, 0x55, 0x65])

/-- R11: the canonical field extraction, bit for bit. -/
def Obligations.FieldsAreMasksAndShifts : Prop :=
  ∀ op : Word,
    (opX op).toNat = ((op &&& 0x0F00#16) >>> 8).toNat ∧ (opY op).toNat = ((op &&& 0x00F0#16) >>> 4).toNat ∧
    (opN op).toNat = (op &&& 0x000F#16).toNat ∧ (opKK op).toNat = (op &&& 0x00FF#16).toNat ∧
    (opNNN op).toNat = (op &&& 0x0FFF#16).toNat

/-- R95: `op & mask == match` selects the row, CLS and RET before SYS. -/
def Obligations.MaskAndMatchSelectTheRow : Prop :=
  (∀ (op : Word) (i : Instr), decodeWord op = .ok i → op &&& maskOf i = matchOf i) ∧
  (∀ (op : Word) (i : Instr), op &&& maskOf i = matchOf i →
    ((∃ nnn, i = .sys nnn) → op ≠ 0x00E0 ∧ op ≠ 0x00EE) →
    ∃ j, decodeWord op = .ok j ∧ maskOf j = maskOf i ∧ matchOf j = matchOf i)

/-! ### The engine cycle -/

/-- R121 to R123: where a cycle is enabled and is the next event, and the bytes at PC decode, the step is that
instruction's `exec`, at the state with the event taken, the cycle's inputs latched and PC advanced by 2. -/
def Obligations.StepRunsTheDecodedInstruction : Prop :=
  ∀ (s : State) (c : CycleInputs) (i : Instr), s.run = .running → s.wait = .none → s.nextEvent = .cycle c →
    decode [Memory.read s.mem s.pc.toNat, Memory.read s.mem (s.pc.toNat + 1)] = .ok (i, []) →
    step s = exec i (s.takeEvent.latch c).advancePc

/-- R63, R122: the fetched word is big-endian, and the advance is by 2 modulo 65536 (the modulus is D4, log 12). -/
def Obligations.FetchIsBigEndianAndAdvancesPc : Prop :=
  ∀ s : State, s.fetchWord.toNat =
      (Memory.read s.mem (s.pc.toNat % 4096)).toNat * 256 + (Memory.read s.mem ((s.pc.toNat + 1) % 4096)).toNat ∧
    s.advancePc.pc.toNat = (s.pc.toNat + 2) % 65536

/-- R123, R251, R259: an Illegal word halts the engine with UnsupportedOpcode and INFO the word, PC the post-fetch PC and
everything else as before. The latch and PC at the halt are the spec's D13 (log 16). -/
def Obligations.IllegalWordHaltsTheEngine : Prop :=
  ∀ (s : State) (c : CycleInputs), s.run = .running → s.wait = .none → s.nextEvent = .cycle c →
    (∃ e, decodeWord s.fetchWord = .error e) →
    ∃ t, step s = .next t ∧ t.run = .halted ∧ t.cause = .unsupportedOpcode ∧ t.info = s.fetchWord ∧
      t.pc = s.pc + 2 ∧ RegsExcept [] s t ∧ t.i = s.i ∧ SameMem s t ∧ SameStack s t ∧ SameTimers s t ∧
      t.wait = s.wait ∧ SameDisplay s t

/-! ### The other events -/

/-- R266: the tick, in a key wait or not, takes 1 from each timer that is not 0 and changes nothing else. -/
def Obligations.TickCountsDownToZero : Prop :=
  ∀ s : State, s.run = .running → s.nextEvent = .tick →
    ∃ t, step s = .next t ∧
      t.dt.toNat = (if s.dt.toNat > 0 then s.dt.toNat - 1 else s.dt.toNat) ∧
      t.st.toNat = (if s.st.toNat > 0 then s.st.toNat - 1 else s.st.toNat) ∧
      RegsExcept [] s t ∧ t.i = s.i ∧ t.pc = s.pc ∧ SameMem s t ∧ SameStack s t ∧ SameRun s t ∧ t.wait = s.wait ∧
      SameDisplay s t ∧ t.inputs = s.inputs

/-- R261: in Halted no cycle, tick, key event or stop changes any state; that reset alone leaves Halted is D21 (log 20). -/
def Obligations.HaltedIsTerminal : Prop :=
  ∀ s : State, s.run = .halted → (∀ rom, s.nextEvent ≠ .reset rom) → ∃ t, step s = .next t ∧ OnlyEvents s t

/-- R232, step 2: a key event writes the waiting register and ends the wait; with no wait it is dropped. The two-step form
is D8 (log 26). -/
def Obligations.KeyEventEndsTheWait : Prop :=
  ∀ (s : State) (k : BitVec 4), s.run = .running → s.nextEvent = .key k →
    ∃ t, step s = .next t ∧ t.wait = .none ∧
      (∀ r, s.wait = .waitKey r → (t.reg r).toNat = k.toNat ∧ RegsExcept [r] s t) ∧
      (s.wait = .none → RegsExcept [] s t) ∧
      t.i = s.i ∧ t.pc = s.pc ∧ SameMem s t ∧ SameStack s t ∧ SameTimers s t ∧ SameRun s t ∧ SameDisplay s t

/-- R35, R232: while WAIT is WaitKey(r) a cycle fetches nothing and changes nothing (D8, log 26). -/
def Obligations.KeyWaitFetchesNothing : Prop :=
  ∀ (s : State) (r : Reg) (c : CycleInputs), s.run = .running → s.wait = .waitKey r → s.nextEvent = .cycle c →
    ∃ t, step s = .next t ∧ OnlyEvents s t

/-- R263: the stop signal halts a running engine, in a key wait or not, with cause Stop; nothing else changes (D14,
log 3). -/
def Obligations.StopHaltsTheEngine : Prop :=
  ∀ s : State, s.run = .running → s.nextEvent = .stop →
    ∃ t, step s = .next t ∧ t.run = .halted ∧ t.cause = .stop ∧ t.info = 0 ∧ RegsExcept [] s t ∧ t.i = s.i ∧
      t.pc = s.pc ∧ t.mem = s.mem ∧ SameStack s t ∧ SameTimers s t ∧ t.wait = s.wait ∧ SameDisplay s t ∧
      t.inputs = s.inputs

/-! ### Reset -/

/-- R292: after a reset with a ROM that fits, PC is 0x200 and the word fetched there is that of the first two ROM bytes. -/
def Obligations.ResetVectorFetchesTheRom : Prop :=
  ∀ (s : State) (hi lo : Byte) (rest : List Byte), s.nextEvent = .reset (hi :: lo :: rest) →
    (hi :: lo :: rest).length ≤ 3584 →
    ∃ t, step s = .next t ∧ t.pc.toNat = 0x200 ∧ t.fetchWord.toNat = hi.toNat * 256 + lo.toNat ∧ t.run = .running ∧
      t.wait = .none

/-- R46, R290, R295, R296: every field after a reset, from any state, a halted one included (D21, log 20). The zeros of V,
I, DT, ST, STACK and the fill byte are the model's choice (D5; log 7, log 8), the font bytes are presumed (log 9), what an
oversized ROM leaves is D20 (log 19), and that the list of Present events is emptied is the model's choice (log 18). -/
def Obligations.ResetCreatesTheMachineAgain : Prop :=
  ∀ (s : State) (rom : List Byte), s.nextEvent = .reset rom →
    ∃ t, step s = .next t ∧ t.pc.toNat = 0x200 ∧ t.sp = 0 ∧ t.i = 0 ∧ t.dt = 0 ∧ t.st = 0 ∧ t.wait = .none ∧
      t.info = 0 ∧ t.presents = [] ∧ (∀ r, t.reg r = 0) ∧ (∀ k : Fin 16, t.stack[k] = 0) ∧
      (∀ r c, t.fb.pixel r c = false) ∧
      (if rom.length ≤ 3584 then
        t.run = .running ∧ t.cause = .none ∧ (∀ k (h : k < rom.length), Memory.read t.mem (0x200 + k) = rom[k]) ∧
        (∀ a < 4096, a < 0x200 ∨ 0x200 + rom.length ≤ a → Memory.read t.mem a = fontTable.getD a 0)
      else t.run = .halted ∧ t.cause = .romTooLarge ∧ (∀ a < 4096, Memory.read t.mem a = fontTable.getD a 0))

/-- R255: RomTooLarge is raised by a reset with more than 3584 bytes, with INFO 0, by no reset with fewer, and by no
instruction. That an oversized ROM leaves the engine Halted with this cause is the spec's decision D20 (log 19), and the
latched CAUSE and INFO are D13 (log 16). -/
def Obligations.RomTooLargeOnlyAtBoot : Prop :=
  (∀ (s : State) (rom : List Byte), s.nextEvent = .reset rom → rom.length > 3584 →
    ∃ t, step s = .next t ∧ t.run = .halted ∧ t.cause = .romTooLarge ∧ t.info = 0) ∧
  (∀ (s : State) (rom : List Byte), s.nextEvent = .reset rom → rom.length ≤ 3584 →
    ∃ t, step s = .next t ∧ t.run = .running ∧ t.cause = .none) ∧
  (∀ (i : Instr) (s t : State), exec i s = .next t → s.cause ≠ .romTooLarge → t.cause ≠ .romTooLarge)

/-- R46: what `State.reset` holds of the values the source states or the spec derives: PC, SP, the framebuffer, RUN,
CAUSE, INFO, WAIT and the place of the font. -/
def Obligations.ResetStateHoldsTheStatedValues : Prop :=
  State.reset.pc.toNat = 0x0200 ∧ State.reset.sp = 0 ∧ State.reset.run = .running ∧ State.reset.cause = .none ∧
  State.reset.info = 0 ∧ State.reset.wait = .none ∧ (∀ r c, State.reset.fb.pixel r c = false) ∧
  fontTable.length = 80 ∧ (∀ k (h : k < fontTable.length), Memory.read State.reset.mem k = fontTable[k])

/-! ### Display -/

/-- R211: 00E0 clears every pixel, presents once, leaves VF and everything else alone. One Present, also where no pixel
changed, is the spec's decision D19 (log 18). -/
def Obligations.ClsClearsAndPresents : Prop :=
  ∀ s : State, ∃ t, exec .cls s = .next t ∧ (∀ r c, t.fb.pixel r c = false) ∧ t.presents = t.fb :: s.presents ∧
    RegsExcept [] s t ∧ t.i = s.i ∧ t.pc = s.pc ∧ SameMem s t ∧ SameStack s t ∧ SameTimers s t ∧ SameRun s t ∧
    t.wait = s.wait ∧ SameInputs s t

/-- R212, R213: Dxyn toggles exactly the covered pixels, sets VF to 1 exactly when a covered pixel was lit, and presents
once. The bit order is presumed (D11, log 15), I unchanged is D22 (log 21), coordinates over the grid are D25 (log 23),
the old VF as a coordinate is D3 (log 11), and one Present, also with n = 0, is D19 (log 18). -/
def Obligations.DrwTogglesCoveredPixels : Prop :=
  ∀ (s : State) (x y : Reg) (n : Nibble), ∃ t, exec (.drw x y n) s = .next t ∧
    (∀ r c, SpriteCovers (s.reg x).toNat (s.reg y).toNat (s.spriteRows n) r c → t.fb.pixel r c = !s.fb.pixel r c) ∧
    (∀ r c, ¬ SpriteCovers (s.reg x).toNat (s.reg y).toNat (s.spriteRows n) r c → t.fb.pixel r c = s.fb.pixel r c) ∧
    ((∃ r c, SpriteCovers (s.reg x).toNat (s.reg y).toNat (s.spriteRows n) r c ∧ s.fb.pixel r c = true) →
      t.reg VF = 0x01) ∧
    ((¬ ∃ r c, SpriteCovers (s.reg x).toNat (s.reg y).toNat (s.spriteRows n) r c ∧ s.fb.pixel r c = true) →
      t.reg VF = 0x00) ∧
    (∀ k (h : k < (s.spriteRows n).length), (s.spriteRows n)[k] = Memory.read s.mem (s.effAddr k)) ∧
    (s.spriteRows n).length = n.toNat ∧ t.presents = t.fb :: s.presents ∧ RegsExcept [VF] s t ∧ t.i = s.i ∧
    t.pc = s.pc ∧ SameMem s t ∧ SameStack s t ∧ SameTimers s t ∧ SameRun s t ∧ t.wait = s.wait ∧ SameInputs s t

/-- R215: drawing the same sprite twice restores the framebuffer, and the second draw collides exactly when some 1 bit of
the sprite fell on a dark pixel the first time (x and y not VF, which the first draw changes). That I is the same for the
second draw is D22 (log 21); which pixels a bit falls on rests on D11 (log 15) and D25 (log 23). -/
def Obligations.DrawingTwiceRestoresTheScreen : Prop :=
  ∀ (s : State) (x y : Reg) (n : Nibble), x ≠ VF → y ≠ VF →
    ∃ t u, exec (.drw x y n) s = .next t ∧ exec (.drw x y n) t = .next u ∧ u.fb = s.fb ∧
      (u.reg VF = 0x01 ↔
        ∃ r c, SpriteCovers (s.reg x).toNat (s.reg y).toNat (s.spriteRows n) r c ∧ s.fb.pixel r c = false)

/-! ### Control transfer -/

/-- R142: 00EE with a stack that is not empty pops its top entry, all 16 bits, into PC; the entry keeps its contents.
The indexing by SP is D6 (log 13). -/
def Obligations.RetPopsIntoPc : Prop :=
  ∀ s : State, s.sp ≠ 0 → ∃ t, exec .ret s = .next t ∧ t.sp.val + 1 = s.sp.val ∧
    (∀ k : Fin 16, k.val + 1 = s.sp.val → t.pc = s.stack[k]) ∧ t.stack = s.stack ∧
    RegsExcept [] s t ∧ t.i = s.i ∧ SameMem s t ∧ SameTimers s t ∧ SameRun s t ∧ t.wait = s.wait ∧ SameDisplay s t ∧
    SameInputs s t

/-- R254: ReturnWithEmptyStack is raised by 00EE with SP = 0, with INFO 0, and by nothing else: a step that newly shows it
is an enabled cycle that runs 00EE. The latched CAUSE and INFO are the spec's decision D13 (log 16). -/
def Obligations.OnlyRetRaisesReturnWithEmptyStack : Prop :=
  (∀ s : State, s.sp = 0 →
    ∃ t, exec .ret s = .next t ∧ t.run = .halted ∧ t.cause = .returnWithEmptyStack ∧ t.info = 0) ∧
  (∀ s t : State, step s = .next t → s.cause ≠ .returnWithEmptyStack → t.cause = .returnWithEmptyStack →
    ∃ c, s.nextEvent = .cycle c ∧ s.CycleEnabled ∧ s.sp = 0 ∧ decodeWord s.fetchWord = .ok .ret)

/-- R144: 2nnn with a stack that is not full pushes the full 16-bit post-fetch PC and jumps. The indexing by SP is D6
(log 13). -/
def Obligations.CallPushesThePostFetchPc : Prop :=
  ∀ (s : State) (nnn : Addr12), s.sp ≠ 16 → ∃ t, exec (.call nnn) s = .next t ∧ t.sp.val = s.sp.val + 1 ∧
    (∀ k : Fin 16, t.stack[k] = if k.val = s.sp.val then s.pc else s.stack[k]) ∧ t.pc.toNat = nnn.toNat ∧
    RegsExcept [] s t ∧ t.i = s.i ∧ SameMem s t ∧ SameTimers s t ∧ SameRun s t ∧ t.wait = s.wait ∧ SameDisplay s t ∧
    SameInputs s t

/-- R252: StackOverflow is raised by 2nnn with SP = 16, with INFO the post-fetch PC, and by nothing else: a step that newly
shows it is an enabled cycle that runs 2nnn. The latched CAUSE and INFO are the spec's decision D13 (log 16). -/
def Obligations.OnlyCallRaisesStackOverflow : Prop :=
  (∀ (s : State) (nnn : Addr12), s.sp = 16 →
    ∃ t, exec (.call nnn) s = .next t ∧ t.run = .halted ∧ t.cause = .stackOverflow ∧ t.info = s.pc) ∧
  (∀ s t : State, step s = .next t → s.cause ≠ .stackOverflow → t.cause = .stackOverflow →
    ∃ c nnn, s.nextEvent = .cycle c ∧ s.CycleEnabled ∧ s.sp = 16 ∧ decodeWord s.fetchWord = .ok (.call nnn))

/-- R144, R252, R254: from an empty stack up to 16 calls in a row, with no return between, succeed, the 17th halts with
StackOverflow, and a return with none held halts with ReturnWithEmptyStack. SP as the number of calls held is the spec's
decision D6 (log 13), and the latched CAUSE is D13 (log 16). -/
def Obligations.SixteenCallsAndNoMore : Prop :=
  (∀ (s : State) (targets : List Addr12), s.sp = 0 → targets.length ≤ 16 →
    ∃ t, callMany targets s = .next t ∧ SameRun s t ∧ t.sp.val = targets.length) ∧
  (∀ (s t : State) (targets : List Addr12) (last : Addr12), s.sp = 0 → targets.length = 16 →
    callMany targets s = .next t →
    ∃ u, exec (.call last) t = .next u ∧ u.run = .halted ∧ u.cause = .stackOverflow) ∧
  (∀ s : State, s.sp = 0 → ∃ t, exec .ret s = .next t ∧ t.run = .halted ∧ t.cause = .returnWithEmptyStack)

/-- R142, R144: a return from a state that still holds the stack a call left continues after the call. -/
def Obligations.ReturnUndoesCall : Prop :=
  ∀ (s : State) (nnn : Addr12), s.sp ≠ 16 → ∃ t, exec (.call nnn) s = .next t ∧
    ∀ u : State, SameStack t u → ∃ w, exec .ret u = .next w ∧ w.pc = s.pc ∧ w.sp = s.sp

/-- R141: SYS is a no-op where its operand is in SYS_NOP_SET and else halts with UnsupportedOpcode and INFO the word,
changing nothing else. The set is an open parameter (D1, log 6), and the statement holds for every set; what the halt
latches and leaves is the spec's decision D13 (log 16). -/
def Obligations.SysIsNopOrUnsupported : Prop :=
  ∀ (s : State) (nnn : Addr12), ∃ t, exec (.sys nnn) s = .next t ∧
    RegsExcept [] s t ∧ t.i = s.i ∧ t.pc = s.pc ∧ SameMem s t ∧ SameStack s t ∧ SameTimers s t ∧ t.wait = s.wait ∧
    SameDisplay s t ∧ SameInputs s t ∧
    (if Config.sysNop nnn = true then SameRun s t
      else t.run = .halted ∧ t.cause = .unsupportedOpcode ∧ t.info.toNat = nnn.toNat)

/-- R143, R145: 1nnn sets PC to nnn, Bnnn to (nnn + V0) mod 4096; nothing else changes. -/
def Obligations.JumpsSetPc : Prop :=
  ∀ (s : State) (nnn : Addr12),
    (∃ t, exec (.jp nnn) s = .next t ∧ t.pc.toNat = nnn.toNat ∧ OnlyPc s t) ∧
    (∃ t, exec (.jpV0 nnn) s = .next t ∧ t.pc.toNat = (nnn.toNat + (s.reg 0).toNat) % 4096 ∧ OnlyPc s t)

/-- R146 to R149, R140: each skip advances PC by 2 more exactly when its condition holds, and changes nothing else. The
advance is modulo 65536 (D4, log 12). -/
def Obligations.SkipsAdvancePcOnTheirCondition : Prop :=
  ∀ (s : State) (x y : Reg) (kk : Byte),
    (∃ t, exec (.seVxKk x kk) s = .next t ∧ OnlyPc s t ∧
      t.pc.toNat = (if s.reg x = kk then (s.pc.toNat + 2) % 65536 else s.pc.toNat)) ∧
    (∃ t, exec (.sneVxKk x kk) s = .next t ∧ OnlyPc s t ∧
      t.pc.toNat = (if s.reg x ≠ kk then (s.pc.toNat + 2) % 65536 else s.pc.toNat)) ∧
    (∃ t, exec (.seVxVy x y) s = .next t ∧ OnlyPc s t ∧
      t.pc.toNat = (if s.reg x = s.reg y then (s.pc.toNat + 2) % 65536 else s.pc.toNat)) ∧
    (∃ t, exec (.sneVxVy x y) s = .next t ∧ OnlyPc s t ∧
      t.pc.toNat = (if s.reg x ≠ s.reg y then (s.pc.toNat + 2) % 65536 else s.pc.toNat))

/-- R230, R231, R236: Ex9E skips where the key of V[x]'s low nibble is down, ExA1 where it is up. The low nibble is D9
(log 14), and the skip's modulus D4 (log 12). -/
def Obligations.KeySkipsSampleTheLevel : Prop :=
  ∀ (s : State) (x : Reg),
    (∃ t, exec (.skp x) s = .next t ∧ OnlyPc s t ∧
      t.pc.toNat = (if s.inputs.keyDown.getLsbD ((s.reg x).toNat % 16) = true then (s.pc.toNat + 2) % 65536
        else s.pc.toNat)) ∧
    (∃ t, exec (.sknp x) s = .next t ∧ OnlyPc s t ∧
      t.pc.toNat = (if s.inputs.keyDown.getLsbD ((s.reg x).toNat % 16) = true then s.pc.toNat
        else (s.pc.toNat + 2) % 65536))

/-! ### Registers and ALU -/

/-- R161, R163: 6xkk loads kk and 8xy0 copies V[y], into V[x] alone. -/
def Obligations.LoadsWriteOneRegister : Prop :=
  ∀ (s : State) (x y : Reg) (kk : Byte),
    (∃ t, exec (.ldVxKk x kk) s = .next t ∧ t.reg x = kk ∧ OnlyRegs [x] s t) ∧
    (∃ t, exec (.ldVxVy x y) s = .next t ∧ t.reg x = s.reg y ∧ OnlyRegs [x] s t)

/-- R164 to R166: OR, AND and XOR write V[x] alone; VF is not touched unless it is V[x]. -/
def Obligations.BitwiseOpsWriteNoFlag : Prop :=
  ∀ (s : State) (x y : Reg),
    (∃ t, exec (.or x y) s = .next t ∧ t.reg x = s.reg x ||| s.reg y ∧ OnlyRegs [x] s t) ∧
    (∃ t, exec (.and x y) s = .next t ∧ t.reg x = s.reg x &&& s.reg y ∧ OnlyRegs [x] s t) ∧
    (∃ t, exec (.xor x y) s = .next t ∧ t.reg x = s.reg x ^^^ s.reg y ∧ OnlyRegs [x] s t)

/-- R162, R167: the sum modulo 256 goes to V[x] and the carry to VF; where V[x] is VF the carry stands, which rests on the
spec's decision D3 (log 11). -/
def Obligations.AddsWriteSumThenCarry : Prop :=
  ∀ (s : State) (x y : Reg) (kk : Byte),
    (∃ t, exec (.addVxKk x kk) s = .next t ∧ (x ≠ VF → (t.reg x).toNat = ((s.reg x).toNat + kk.toNat) % 256) ∧
      t.reg VF = (if (s.reg x).toNat + kk.toNat > 255 then 0x01 else 0x00) ∧ OnlyRegs [x, VF] s t) ∧
    (∃ t, exec (.addVxVy x y) s = .next t ∧ (x ≠ VF → (t.reg x).toNat = ((s.reg x).toNat + (s.reg y).toNat) % 256) ∧
      t.reg VF = (if (s.reg x).toNat + (s.reg y).toNat > 255 then 0x01 else 0x00) ∧ OnlyRegs [x, VF] s t)

/-- R168, R170: the difference modulo 256 goes to V[x] and no-borrow to VF, with V[x] as the minuend in 8xy5 and V[y] in
8xy7; where V[x] is VF the flag stands, which rests on the spec's decision D3 (log 11). -/
def Obligations.SubsWriteDifferenceThenNoBorrow : Prop :=
  ∀ (s : State) (x y : Reg),
    (∃ t, exec (.sub x y) s = .next t ∧
      (x ≠ VF → ((t.reg x).toNat : Int) = (((s.reg x).toNat : Int) - ((s.reg y).toNat : Int)) % 256) ∧
      t.reg VF = (if (s.reg x).toNat ≥ (s.reg y).toNat then 0x01 else 0x00) ∧ OnlyRegs [x, VF] s t) ∧
    (∃ t, exec (.subn x y) s = .next t ∧
      (x ≠ VF → ((t.reg x).toNat : Int) = (((s.reg y).toNat : Int) - ((s.reg x).toNat : Int)) % 256) ∧
      t.reg VF = (if (s.reg y).toNat ≥ (s.reg x).toNat then 0x01 else 0x00) ∧ OnlyRegs [x, VF] s t)

/-- R169, R171: V[x] is shifted in place by one whatever y is, and VF gets the bit shifted out; where V[x] is VF the result
stands, which rests on the spec's decision D3 (log 11). -/
def Obligations.ShiftsWriteFlagThenResult : Prop :=
  ∀ (s : State) (x y : Reg),
    (∃ t, exec (.shr x y) s = .next t ∧ (t.reg x).toNat = (s.reg x).toNat / 2 ∧
      (x ≠ VF → (t.reg VF).toNat = (s.reg x).toNat % 2) ∧ OnlyRegs [x, VF] s t) ∧
    (∃ t, exec (.shl x y) s = .next t ∧ (t.reg x).toNat = (s.reg x).toNat * 2 % 256 ∧
      (x ≠ VF → (t.reg VF).toNat = (s.reg x).toNat / 128) ∧ OnlyRegs [x, VF] s t)

/-- R172: Cxkk writes the cycle's random byte, whatever it is, masked by kk, into V[x] alone; every bit that is 0 in kk is
0 in the result. The byte is a free input (D10, log 2). -/
def Obligations.RndMasksAFreeByte : Prop :=
  ∀ (s : State) (x : Reg) (kk : Byte), ∃ t, exec (.rnd x kk) s = .next t ∧ t.reg x = s.inputs.rnd &&& kk ∧
    t.reg x &&& ~~~kk = 0 ∧ OnlyRegs [x] s t

/-! ### Index register and memory -/

/-- R191: Annn loads I alone. -/
def Obligations.LdILoadsTheAddress : Prop :=
  ∀ (s : State) (nnn : Addr12), ∃ t, exec (.ldI nnn) s = .next t ∧ t.i.toNat = nnn.toNat ∧ OnlyIndex s t

/-- R192, R193: Fx1E stores (I + V[x]) mod 4096 and Fx29 stores 5 * V[x], in I alone. VF unchanged by Fx1E is D22 (log 21),
and the unmasked digit of Fx29 is D24 (log 22). -/
def Obligations.IndexArithmetic : Prop :=
  ∀ (s : State) (x : Reg),
    (∃ t, exec (.addIVx x) s = .next t ∧ t.i.toNat = (s.i.toNat + (s.reg x).toNat) % 4096 ∧ OnlyIndex s t) ∧
    (∃ t, exec (.ldFVx x) s = .next t ∧ t.i.toNat = 5 * (s.reg x).toNat ∧ OnlyIndex s t)

/-- R194: Fx33 stores the hundreds, tens and ones at I, I + 1 and I + 2, each modulo 4096, and changes nothing else. I
unchanged is D22 (log 21), and that a store into the font is performed is D15 (log 17). -/
def Obligations.BcdStoresThreeDigits : Prop :=
  ∀ (s : State) (x : Reg), s.MemCanonical → ∃ t, exec (.ldBVx x) s = .next t ∧
    (Memory.read t.mem (s.effAddr 0)).toNat = (s.reg x).toNat / 100 ∧
    (Memory.read t.mem (s.effAddr 1)).toNat = (s.reg x).toNat / 10 % 10 ∧
    (Memory.read t.mem (s.effAddr 2)).toNat = (s.reg x).toNat % 10 ∧ OnlyMem (s.effAddr 0) 3 s t

/-- R195: Fx55 stores V[0] to V[x] at I to I + x, each modulo 4096, and changes nothing else. I unchanged is D22 (log 21),
and that a store into the font is performed is D15 (log 17). -/
def Obligations.StoreBlockWritesTheRegisters : Prop :=
  ∀ (s : State) (x : Reg), s.MemCanonical → ∃ t, exec (.ldMiVx x) s = .next t ∧
    (∀ r : Reg, r.toNat ≤ x.toNat → Memory.read t.mem (s.effAddr r.toNat) = s.reg r) ∧
    OnlyMem (s.effAddr 0) (x.toNat + 1) s t

/-- R196: Fx65 loads V[0] to V[x] from I to I + x, each modulo 4096, and changes nothing else. I unchanged is D22
(log 21). -/
def Obligations.LoadBlockReadsTheRegisters : Prop :=
  ∀ (s : State) (x : Reg), ∃ t, exec (.ldVxMi x) s = .next t ∧
    (∀ r : Reg, t.reg r = if r.toNat ≤ x.toNat then Memory.read s.mem (s.effAddr r.toNat) else s.reg r) ∧
    t.i = s.i ∧ t.pc = s.pc ∧ SameMem s t ∧ SameRest s t

/-- R195, R196 (the source's round-trip property): a later Fx65 with the same x, I and memory gives V[0] to V[x] back. That
a store into the font is performed is D15 (log 17). -/
def Obligations.StoreThenLoadRestoresTheRegisters : Prop :=
  ∀ (s : State) (x : Reg), s.MemCanonical → ∃ t, exec (.ldMiVx x) s = .next t ∧
    ∀ u : State, u.mem = t.mem → u.i = s.i →
      ∃ w, exec (.ldVxMi x) u = .next w ∧ ∀ r : Reg, r.toNat ≤ x.toNat → w.reg r = s.reg r

/-- R70: a byte that Fx55 or Fx33 stores is the byte a later fetch takes from the same cell, as the high byte of the word
or as its low byte, whatever the PC of that fetch. The fetch at PC modulo 4096 is D4 (log 12), and that a store into the
font is performed is D15 (log 17). -/
def Obligations.StoredBytesAreFetched : Prop :=
  ∀ (s : State) (x : Reg), s.MemCanonical →
    (∃ t, exec (.ldMiVx x) s = .next t ∧ ∀ u : State, u.mem = t.mem → ∀ k : Reg, k.toNat ≤ x.toNat →
      (u.pc.toNat % 4096 = (s.i.toNat + k.toNat) % 4096 → u.fetchWord.toNat / 256 = (s.reg k).toNat) ∧
      ((u.pc.toNat + 1) % 4096 = (s.i.toNat + k.toNat) % 4096 → u.fetchWord.toNat % 256 = (s.reg k).toNat)) ∧
    (∃ t, exec (.ldBVx x) s = .next t ∧ ∀ u : State, u.mem = t.mem → ∀ k < 3,
      (u.pc.toNat % 4096 = (s.i.toNat + k) % 4096 →
        u.fetchWord.toNat / 256 = (s.reg x).toNat / 10 ^ (2 - k) % 10) ∧
      ((u.pc.toNat + 1) % 4096 = (s.i.toNat + k) % 4096 →
        u.fetchWord.toNat % 256 = (s.reg x).toNat / 10 ^ (2 - k) % 10))

/-! ### Keypad and timers -/

/-- R232, step 1: Fx0A sets WAIT to WaitKey(x) and changes nothing else. The substate is D8 (log 26). -/
def Obligations.KeyWaitBegins : Prop :=
  ∀ (s : State) (x : Reg), ∃ t, exec (.ldVxK x) s = .next t ∧ t.wait = .waitKey x ∧ RegsExcept [] s t ∧ t.i = s.i ∧
    t.pc = s.pc ∧ SameMem s t ∧ SameStack s t ∧ SameTimers s t ∧ SameRun s t ∧ SameDisplay s t ∧ SameInputs s t

/-- R233 to R235: Fx07 reads DT into V[x] alone, Fx15 loads DT alone, Fx18 loads ST alone. -/
def Obligations.TimerAccess : Prop :=
  ∀ (s : State) (x : Reg),
    (∃ t, exec (.ldVxDt x) s = .next t ∧ t.reg x = s.dt ∧ OnlyRegs [x] s t) ∧
    (∃ t, exec (.ldDtVx x) s = .next t ∧ t.dt = s.reg x ∧ t.st = s.st ∧ RegsExcept [] s t ∧ t.i = s.i ∧ t.pc = s.pc ∧
      SameMem s t ∧ SameStack s t ∧ SameRun s t ∧ t.wait = s.wait ∧ SameDisplay s t ∧ SameInputs s t) ∧
    (∃ t, exec (.ldStVx x) s = .next t ∧ t.st = s.reg x ∧ t.dt = s.dt ∧ RegsExcept [] s t ∧ t.i = s.i ∧ t.pc = s.pc ∧
      SameMem s t ∧ SameStack s t ∧ SameRun s t ∧ t.wait = s.wait ∧ SameDisplay s t ∧ SameInputs s t)

/-! ### Whole-machine rules -/

/-- R23: the seven flag writers give VF the flag of the table, and every other instruction leaves VF unchanged, unless VF
is its x field or Fx65 loads it. VF unchanged by Fx1E is the spec's decision D22 (log 21). -/
def Obligations.VfIsWrittenAsTheTableSays : Prop :=
  ∀ (i : Instr) (s t : State), exec i s = .next t → destReg i ≠ some VF →
    (∀ f, flagOf s i = some f → t.reg VF = if f then 0x01 else 0x00) ∧
    (flagOf s i = none → i ≠ .ldVxMi VF → t.reg VF = s.reg VF)

/-- R33, R210, R216: no instruction but 00E0 and Dxyn changes the framebuffer or presents. -/
def Obligations.OnlyTwoInstructionsTouchTheScreen : Prop :=
  ∀ (i : Instr) (s t : State), exec i s = .next t → i ≠ .cls → (∀ x y n, i ≠ .drw x y n) → SameDisplay s t

/-- R27: no instruction but 2nnn and 00EE changes SP or a stack entry. -/
def Obligations.OnlyCallAndRetTouchTheStack : Prop :=
  ∀ (i : Instr) (s t : State), exec i s = .next t → i ≠ .ret → (∀ nnn, i ≠ .call nnn) → SameStack s t

/-- R65: no instruction but Fx33 and Fx55 changes memory, in any cell. -/
def Obligations.OnlyTwoInstructionsStore : Prop :=
  ∀ (i : Instr) (s t : State), exec i s = .next t → (∀ x, i ≠ .ldBVx x) → (∀ x, i ≠ .ldMiVx x) → t.mem = s.mem

/-- R24: no instruction but Annn, Fx1E and Fx29 changes I. I unchanged by Fx33, Fx55, Fx65 and Dxyn is the spec's decision
D22 (log 21). -/
def Obligations.OnlyThreeInstructionsWriteI : Prop :=
  ∀ (i : Instr) (s t : State), exec i s = .next t → (∀ nnn, i ≠ .ldI nnn) → (∀ x, i ≠ .addIVx x) →
    (∀ x, i ≠ .ldFVx x) → t.i = s.i

/-- R26, R124: an instruction that is no jump, call, return or skip leaves the post-fetch PC. -/
def Obligations.OtherInstructionsKeepThePostFetchPc : Prop :=
  ∀ (i : Instr) (s t : State), exec i s = .next t → setsPc i = false → t.pc = s.pc

/-- R267: in every step and under every schedule, resets apart, a timer goes up only where the step is an enabled cycle that
runs Fx15 (DT) or Fx18 (ST). -/
def Obligations.TimersRiseOnlyByLoading : Prop :=
  ∀ s t : State, step s = .next t → (∀ rom, s.nextEvent ≠ .reset rom) →
    (s.dt.toNat < t.dt.toNat →
      ∃ c x, s.nextEvent = .cycle c ∧ s.CycleEnabled ∧ decodeWord s.fetchWord = .ok (.ldDtVx x)) ∧
    (s.st.toNat < t.st.toNat →
      ∃ c x, s.nextEvent = .cycle c ∧ s.CycleEnabled ∧ decodeWord s.fetchWord = .ok (.ldStVx x))

/-- R125, R259: an instruction that halts a running engine has made none of its writes: only RUN, CAUSE and INFO differ
(D13, log 16). -/
def Obligations.FatalInstructionsWriteNothing : Prop :=
  ∀ (i : Instr) (s t : State), exec i s = .next t → s.run = .running → t.run = .halted →
    RegsExcept [] s t ∧ t.i = s.i ∧ t.pc = s.pc ∧ t.mem = s.mem ∧ SameStack s t ∧ SameTimers s t ∧ t.wait = s.wait ∧
    SameDisplay s t ∧ SameInputs s t

/-- R253, R256: no step raises StackUnderflow or InvalidRegister. -/
def Obligations.UnreachableConditionsAreNotRaised : Prop :=
  ∀ s t : State, step s = .next t →
    (s.cause ≠ .stackUnderflow → t.cause ≠ .stackUnderflow) ∧ (s.cause ≠ .invalidRegister → t.cause ≠ .invalidRegister)

/-- R250: the list of conditions that stop the engine is closed: a step that halts a running engine is a stop, a reset, or
one of the three conditions an instruction raises. That every step answers a next state is the model's choice: a fatal
condition is a next state (log 5), and an event that is not enabled passes (log 4). -/
def Obligations.EveryStepAnswersANextState : Prop :=
  ∀ s : State, ∃ t, step s = .next t ∧
    (s.run = .running → t.run = .halted →
      (t.cause = .stop ∧ s.nextEvent = .stop) ∨ (∃ rom, s.nextEvent = .reset rom ∧ t.cause = .romTooLarge) ∨
      t.cause = .unsupportedOpcode ∨ t.cause = .stackOverflow ∨ t.cause = .returnWithEmptyStack)

/-- R311: a parked machine stays parked: a cycle changes nothing but the inputs it latches (and the environment's list). -/
def Obligations.ParkedStaysParked : Prop :=
  ∀ (s : State) (c : CycleInputs), s.Parked → s.run = .running → s.wait = .none → s.nextEvent = .cycle c →
    ∃ t, step s = .next t ∧ t.Parked ∧ t = { s with inputs := c, pending := t.pending, drawn := t.drawn }

/-- R47, R32, R35, R216: every step keeps the invariant. Three parts rest on the model's choices: canonical memory is the
model's own form (log 8), I below 4096 after a reset rests on the reset value of I (D5, log 7), and the latest Present equal
to the framebuffer after a reset on the list the reset empties (log 18). -/
def Obligations.EveryStepKeepsTheInvariant : Prop :=
  ∀ s t : State, s.Inv → step s = .next t → t.Inv

/-- R46, R47, R32, R35, R216: the invariant holds at reset. Three parts rest on the model's choices: canonical memory is the
model's own form (log 8), I below 4096 rests on the reset value of I (D5, log 7), and the latest Present equal to the
framebuffer on the list that is empty at reset (log 18). -/
def Obligations.ResetMeetsTheInvariant : Prop := State.reset.Inv
end

