-- ==== Sys2Proof/Laws/Display.lean ====
section
/-! SUPPORT. What the XOR-blit engine does (44_display.md R212), said once: every covered pixel is toggled, every other is
kept, and the blit collides exactly where a covered pixel was lit. -/

namespace Sys2Proof.Machine

/-- Two framebuffers with the same pixels are equal. -/
theorem Framebuffer.ext_pixel {f g : Framebuffer} (h : ∀ r c, f.pixel r c = g.pixel r c) : f = g := by
  apply Vector.ext
  intro r hr
  apply Vector.ext
  intro c hc
  exact h ⟨r, hr⟩ ⟨c, hc⟩

@[simp] theorem Framebuffer.pixel_clear (r : Fin 32) (c : Fin 64) : Framebuffer.clear.pixel r c = false := by
  simp [Framebuffer.clear, Framebuffer.pixel]

@[simp] theorem Framebuffer.pixel_toggle (fb : Framebuffer) (r r' : Fin 32) (c c' : Fin 64) :
    (fb.toggle r c).pixel r' c' = if r' = r ∧ c' = c then !fb.pixel r c else fb.pixel r' c' := by
  unfold Framebuffer.toggle Framebuffer.pixel
  by_cases hr : r' = r
  · subst hr
    by_cases hc : c' = c
    · subst hc; simp
    · have : c.val ≠ c'.val := fun e => hc (Fin.ext e.symm)
      simp [hc, this]
  · have : r.val ≠ r'.val := fun e => hr (Fin.ext e.symm)
    simp [hr, this]

/-- Columns that are fewer than 64 apart are different. -/
theorem colOf_add_ne {x j k : Nat} (hjk : j < k) (hk : k < j + 64) : colOf (x + j) ≠ colOf (x + k) := by
  intro h
  have := congrArg Fin.val h
  simp only [colOf, Fin.ofNat] at this
  omega

/-- Rows that are fewer than 32 apart are different. -/
theorem rowOf_add_ne {y j k : Nat} (hjk : j < k) (hk : k < j + 32) : rowOf (y + j) ≠ rowOf (y + k) := by
  intro h
  have := congrArg Fin.val h
  simp only [rowOf, Fin.ofNat] at this
  omega

/-- The first `n` source bits of one row. -/
theorem BlitState.row_spec (b : BlitState) (y x : Nat) (row : Byte) (n : Nat) (hn : n ≤ 64) :
    (∀ r c, ((List.range n).foldl (fun b j => b.bit y x row j) b).fb.pixel r c =
      if r = rowOf y ∧ ∃ j < n, c = colOf (x + j) ∧ spriteBit row j = true then !b.fb.pixel r c else b.fb.pixel r c) ∧
    (((List.range n).foldl (fun b j => b.bit y x row j) b).collided = true ↔
      b.collided = true ∨ ∃ j < n, spriteBit row j = true ∧ b.fb.pixel (rowOf y) (colOf (x + j)) = true) := by
  induction n with
  | zero => simp
  | succ n ih =>
    obtain ⟨ihp, ihc⟩ := ih (by omega)
    rw [List.range_succ, List.foldl_append]
    simp only [List.foldl_cons, List.foldl_nil]
    generalize hb' : (List.range n).foldl (fun b j => b.bit y x row j) b = b' at ihp ihc ⊢
    have hfresh : ¬ ∃ j < n, colOf (x + n) = colOf (x + j) ∧ spriteBit row j = true := by
      rintro ⟨j, hj, hc, -⟩
      exact colOf_add_ne hj (by omega) hc.symm
    have hold : b'.fb.pixel (rowOf y) (colOf (x + n)) = b.fb.pixel (rowOf y) (colOf (x + n)) := by
      rw [ihp, if_neg (fun h => hfresh h.2)]
    unfold BlitState.bit
    by_cases hs : spriteBit row n = true
    · simp only [hs, if_true]
      refine ⟨fun r c => ?_, ?_⟩
      · rw [Framebuffer.pixel_toggle]
        by_cases hrc : r = rowOf y ∧ c = colOf (x + n)
        · obtain ⟨rfl, rfl⟩ := hrc
          rw [if_pos ⟨rfl, rfl⟩, if_pos ⟨rfl, n, by omega, rfl, hs⟩, hold]
        · rw [if_neg hrc, ihp]
          congr 1
          refine propext ⟨fun ⟨hr, j, hj, h⟩ => ⟨hr, j, by omega, h⟩, fun ⟨hr, j, hj, hc, h⟩ => ⟨hr, j, ?_, hc, h⟩⟩
          rcases Nat.lt_or_ge j n with h' | h'
          · exact h'
          · have : j = n := by omega
            subst this
            exact absurd ⟨hr, hc⟩ hrc
      · rw [Bool.or_eq_true, ihc, hold]
        constructor
        · rintro ((h | ⟨j, hj, h⟩) | h)
          · exact .inl h
          · exact .inr ⟨j, by omega, h⟩
          · exact .inr ⟨n, by omega, hs, h⟩
        · rintro (h | ⟨j, hj, h⟩)
          · exact .inl (.inl h)
          · rcases Nat.lt_or_ge j n with h' | h'
            · exact .inl (.inr ⟨j, h', h⟩)
            · have : j = n := by omega
              subst this
              exact .inr h.2
    · simp only [hs, Bool.false_eq_true, if_false]
      refine ⟨fun r c => ?_, ?_⟩
      · rw [ihp]
        congr 1
        refine propext ⟨fun ⟨hr, j, hj, h⟩ => ⟨hr, j, by omega, h⟩, fun ⟨hr, j, hj, hc, h⟩ => ⟨hr, j, ?_, hc, h⟩⟩
        rcases Nat.lt_or_ge j n with h' | h'
        · exact h'
        · have : j = n := by omega
          subst this
          exact absurd h hs
      · rw [ihc]
        refine or_congr Iff.rfl ⟨fun ⟨j, hj, h⟩ => ⟨j, by omega, h⟩, fun ⟨j, hj, h, h2⟩ => ⟨j, ?_, h, h2⟩⟩
        rcases Nat.lt_or_ge j n with h' | h'
        · exact h'
        · have : j = n := by omega
          subst this
          exact absurd h hs

/-- `SpriteCovers` in the blit engine's words. -/
theorem SpriteCovers_iff (x0 y0 : Nat) (rows : List Byte) (r : Fin 32) (c : Fin 64) :
    SpriteCovers x0 y0 rows r c ↔ ∃ k, ∃ h : k < rows.length, r = rowOf (y0 + k) ∧
      ∃ j < 8, c = colOf (x0 + j) ∧ spriteBit rows[k] j = true := by
  simp only [SpriteCovers, rowOf, colOf, Fin.ofNat, Fin.ext_iff, spriteBit, BitVec.getLsbD]

/-- A sprite covers what its first row covers and what the rows below it cover. -/
theorem SpriteCovers_cons (x y : Nat) (row : Byte) (rest : List Byte) (r : Fin 32) (c : Fin 64) :
    SpriteCovers x y (row :: rest) r c ↔
      (r = rowOf y ∧ ∃ j < 8, c = colOf (x + j) ∧ spriteBit row j = true) ∨ SpriteCovers x (y + 1) rest r c := by
  simp only [SpriteCovers_iff]
  constructor
  · rintro ⟨k, hk, hr, hc⟩
    cases k with
    | zero => exact .inl ⟨hr, hc⟩
    | succ k => exact .inr ⟨k, by simpa using hk, by rw [hr]; congr 1; omega, hc⟩
  · rintro (⟨hr, hc⟩ | ⟨k, hk, hr, hc⟩)
    · exact ⟨0, by simp, hr, hc⟩
    · exact ⟨k + 1, by simpa using hk, by rw [hr]; congr 1; omega, hc⟩

/-- The rows of a sprite of at most 32 rows. -/
theorem BlitState.rows_spec (b : BlitState) (y x : Nat) (rows : List Byte) (hlen : rows.length ≤ 32) :
    (∀ r c, (SpriteCovers x y rows r c → (b.rows y x rows).fb.pixel r c = !b.fb.pixel r c) ∧
      (¬ SpriteCovers x y rows r c → (b.rows y x rows).fb.pixel r c = b.fb.pixel r c)) ∧
    ((b.rows y x rows).collided = true ↔
      b.collided = true ∨ ∃ r c, SpriteCovers x y rows r c ∧ b.fb.pixel r c = true) := by
  induction rows generalizing b y with
  | nil => simp [BlitState.rows, SpriteCovers]
  | cons row rest ih =>
    simp only [List.length_cons] at hlen
    obtain ⟨hp, hc⟩ := BlitState.row_spec b y x row 8 (by omega)
    obtain ⟨ihp, ihc⟩ := ih (b.row y x row) (y + 1) (by omega)
    have hfresh : ∀ r c, SpriteCovers x (y + 1) rest r c → r ≠ rowOf y := by
      intro r c hcov h
      obtain ⟨k, hk, rfl, -⟩ := (SpriteCovers_iff ..).1 hcov
      exact rowOf_add_ne (y := y) (j := 0) (k := 1 + k) (by omega) (by omega)
        (by rw [Nat.add_zero, ← h]; congr 1; omega)
    have hrest : ∀ r c, SpriteCovers x (y + 1) rest r c → (b.row y x row).fb.pixel r c = b.fb.pixel r c := by
      intro r c h
      rw [BlitState.row, hp, if_neg (fun h' => hfresh r c h h'.1)]
    refine ⟨fun r c => ⟨fun h => ?_, fun h => ?_⟩, ?_⟩
    · rw [BlitState.rows]
      rcases (SpriteCovers_cons ..).1 h with h | h
      · rw [(ihp r c).2 (fun h' => hfresh r c h' h.1), BlitState.row, hp, if_pos h]
      · rw [(ihp r c).1 h, hrest r c h]
    · rw [SpriteCovers_cons, not_or] at h
      rw [BlitState.rows, (ihp r c).2 h.2, BlitState.row, hp, if_neg h.1]
    · rw [BlitState.rows, ihc, BlitState.row, hc]
      constructor
      · rintro ((h | ⟨j, hj, hs, h⟩) | ⟨r, c, h, hl⟩)
        · exact .inl h
        · exact .inr ⟨_, _, (SpriteCovers_cons ..).2 (.inl ⟨rfl, j, hj, rfl, hs⟩), h⟩
        · refine .inr ⟨r, c, (SpriteCovers_cons ..).2 (.inr h), ?_⟩
          rw [← hrest r c h]; exact hl
      · rintro (h | ⟨r, c, h, hl⟩)
        · exact .inl (.inl h)
        · rcases (SpriteCovers_cons ..).1 h with ⟨rfl, j, hj, rfl, hs⟩ | h
          · exact .inl (.inr ⟨j, hj, hs, hl⟩)
          · refine .inr ⟨r, c, h, ?_⟩
            have := hrest r c h
            rw [BlitState.row] at this
            rw [this]; exact hl

/-- A covered pixel is toggled (R212). -/
theorem blit_pixel_covered (fb : Framebuffer) (x0 y0 : Nat) (rows : List Byte) (hlen : rows.length ≤ 32) (r : Fin 32)
    (c : Fin 64) (h : SpriteCovers x0 y0 rows r c) : (blit fb x0 y0 rows).fb.pixel r c = !fb.pixel r c :=
  ((BlitState.rows_spec _ y0 x0 rows hlen).1 r c).1 h

/-- A pixel that is not covered is kept (R212). -/
theorem blit_pixel_uncovered (fb : Framebuffer) (x0 y0 : Nat) (rows : List Byte) (hlen : rows.length ≤ 32) (r : Fin 32)
    (c : Fin 64) (h : ¬ SpriteCovers x0 y0 rows r c) : (blit fb x0 y0 rows).fb.pixel r c = fb.pixel r c :=
  ((BlitState.rows_spec _ y0 x0 rows hlen).1 r c).2 h

/-- The blit collides exactly where a covered pixel was lit before it (R212). -/
theorem blit_collided (fb : Framebuffer) (x0 y0 : Nat) (rows : List Byte) (hlen : rows.length ≤ 32) :
    (blit fb x0 y0 rows).collided = true ↔ ∃ r c, SpriteCovers x0 y0 rows r c ∧ fb.pixel r c = true := by
  have := (BlitState.rows_spec { fb := fb, collided := false } y0 x0 rows hlen).2
  simpa [blit] using this

/-- The rows a draw reads: at most 15. -/
theorem State.length_spriteRows (s : State) (n : Nibble) : (s.spriteRows n).length ≤ 32 := by
  have := n.isLt
  simp only [State.spriteRows, Memory.readBytes, List.length_map, List.length_range]
  omega

end Sys2Proof.Machine
end

