-- ==== Sys2Proof/Laws/Encoding.lean ====
section
/-! SUPPORT. The fields of each word layout (30_encoding.md R91, R92), and that the two bytes of a word make it again
(R63). -/

namespace Sys2Proof

/-! ### The layouts as numbers -/

theorem wordNNN_toNat (c : BitVec 4) (nnn : Addr12) : (wordNNN c nnn).toNat = c.toNat * 4096 + nnn.toNat := by
  have := nnn.isLt
  rw [wordNNN, BitVec.toNat_append, ← Nat.shiftLeft_add_eq_or_of_lt this,
    Nat.shiftLeft_eq]

theorem wordXKK_toNat (c : BitVec 4) (x : Reg) (kk : Byte) :
    (wordXKK c x kk).toNat = c.toNat * 4096 + x.toNat * 256 + kk.toNat := by
  have := x.isLt
  have := kk.isLt
  rw [wordXKK, BitVec.toNat_append, BitVec.toNat_append, ← Nat.shiftLeft_add_eq_or_of_lt ‹kk.toNat < _›,
    ← Nat.shiftLeft_add_eq_or_of_lt ‹x.toNat < _›, Nat.shiftLeft_eq, Nat.shiftLeft_eq]
  omega

theorem wordXYN_toNat (c : BitVec 4) (x y : Reg) (n : Nibble) :
    (wordXYN c x y n).toNat = c.toNat * 4096 + x.toNat * 256 + y.toNat * 16 + n.toNat := by
  have := x.isLt
  have := y.isLt
  have := n.isLt
  rw [wordXYN, BitVec.toNat_append, BitVec.toNat_append, BitVec.toNat_append,
    ← Nat.shiftLeft_add_eq_or_of_lt ‹n.toNat < _›, ← Nat.shiftLeft_add_eq_or_of_lt ‹y.toNat < _›,
    ← Nat.shiftLeft_add_eq_or_of_lt ‹x.toNat < _›, Nat.shiftLeft_eq, Nat.shiftLeft_eq, Nat.shiftLeft_eq]
  omega

/-! ### The fields as numbers (R92) -/

theorem opClass_toNat (op : Word) : (opClass op).toNat = op.toNat / 4096 % 16 := by
  simp [opClass, BitVec.extractLsb'_toNat, Nat.shiftRight_eq_div_pow]

theorem opX_toNat (op : Word) : (opX op).toNat = op.toNat / 256 % 16 := by
  simp [opX, BitVec.extractLsb'_toNat, Nat.shiftRight_eq_div_pow]

theorem opY_toNat (op : Word) : (opY op).toNat = op.toNat / 16 % 16 := by
  simp [opY, BitVec.extractLsb'_toNat, Nat.shiftRight_eq_div_pow]

theorem opN_toNat (op : Word) : (opN op).toNat = op.toNat % 16 := by
  simp [opN, BitVec.extractLsb'_toNat, Nat.shiftRight_eq_div_pow]

theorem opKK_toNat (op : Word) : (opKK op).toNat = op.toNat % 256 := by
  simp [opKK, BitVec.extractLsb'_toNat, Nat.shiftRight_eq_div_pow]

theorem opNNN_toNat (op : Word) : (opNNN op).toNat = op.toNat % 4096 := by
  simp [opNNN, BitVec.extractLsb'_toNat, Nat.shiftRight_eq_div_pow]

theorem wordHi_toNat (op : Word) : (wordHi op).toNat = op.toNat / 256 % 256 := by
  simp [wordHi, BitVec.extractLsb'_toNat, Nat.shiftRight_eq_div_pow]

theorem wordLo_toNat (op : Word) : (wordLo op).toNat = op.toNat % 256 := by
  simp [wordLo, BitVec.extractLsb'_toNat, Nat.shiftRight_eq_div_pow]

/-! ### The fields of each layout -/

@[simp] theorem opClass_wordNNN (c : BitVec 4) (nnn : Addr12) : opClass (wordNNN c nnn) = c := by
  apply BitVec.eq_of_toNat_eq
  rw [opClass_toNat, wordNNN_toNat]
  have := c.isLt
  have := nnn.isLt
  omega

@[simp] theorem opNNN_wordNNN (c : BitVec 4) (nnn : Addr12) : opNNN (wordNNN c nnn) = nnn := by
  apply BitVec.eq_of_toNat_eq
  rw [opNNN_toNat, wordNNN_toNat]
  have := c.isLt
  have := nnn.isLt
  omega

@[simp] theorem opClass_wordXKK (c : BitVec 4) (x : Reg) (kk : Byte) : opClass (wordXKK c x kk) = c := by
  apply BitVec.eq_of_toNat_eq
  rw [opClass_toNat, wordXKK_toNat]
  have := c.isLt
  have := x.isLt
  have := kk.isLt
  omega

@[simp] theorem opX_wordXKK (c : BitVec 4) (x : Reg) (kk : Byte) : opX (wordXKK c x kk) = x := by
  apply BitVec.eq_of_toNat_eq
  rw [opX_toNat, wordXKK_toNat]
  have := c.isLt
  have := x.isLt
  have := kk.isLt
  omega

@[simp] theorem opKK_wordXKK (c : BitVec 4) (x : Reg) (kk : Byte) : opKK (wordXKK c x kk) = kk := by
  apply BitVec.eq_of_toNat_eq
  rw [opKK_toNat, wordXKK_toNat]
  have := c.isLt
  have := x.isLt
  have := kk.isLt
  omega

@[simp] theorem opClass_wordXYN (c : BitVec 4) (x y : Reg) (n : Nibble) : opClass (wordXYN c x y n) = c := by
  apply BitVec.eq_of_toNat_eq
  rw [opClass_toNat, wordXYN_toNat]
  have := c.isLt
  have := x.isLt
  have := y.isLt
  have := n.isLt
  omega

@[simp] theorem opX_wordXYN (c : BitVec 4) (x y : Reg) (n : Nibble) : opX (wordXYN c x y n) = x := by
  apply BitVec.eq_of_toNat_eq
  rw [opX_toNat, wordXYN_toNat]
  have := c.isLt
  have := x.isLt
  have := y.isLt
  have := n.isLt
  omega

@[simp] theorem opY_wordXYN (c : BitVec 4) (x y : Reg) (n : Nibble) : opY (wordXYN c x y n) = y := by
  apply BitVec.eq_of_toNat_eq
  rw [opY_toNat, wordXYN_toNat]
  have := c.isLt
  have := x.isLt
  have := y.isLt
  have := n.isLt
  omega

@[simp] theorem opN_wordXYN (c : BitVec 4) (x y : Reg) (n : Nibble) : opN (wordXYN c x y n) = n := by
  apply BitVec.eq_of_toNat_eq
  rw [opN_toNat, wordXYN_toNat]
  have := c.isLt
  have := x.isLt
  have := y.isLt
  have := n.isLt
  omega

/-! ### Bytes of a word (R63) -/

theorem wordOfBytes_toNat (hi lo : Byte) : (wordOfBytes hi lo).toNat = hi.toNat * 256 + lo.toNat := by
  rw [wordOfBytes, BitVec.toNat_append, ← Nat.shiftLeft_add_eq_or_of_lt lo.isLt, Nat.shiftLeft_eq]

@[simp] theorem wordOfBytes_wordHi_wordLo (w : Word) : wordOfBytes (wordHi w) (wordLo w) = w := by
  apply BitVec.eq_of_toNat_eq
  rw [wordOfBytes_toNat, wordHi_toNat, wordLo_toNat]
  have := w.isLt
  omega

@[simp] theorem wordHi_wordOfBytes (hi lo : Byte) : wordHi (wordOfBytes hi lo) = hi := by
  apply BitVec.eq_of_toNat_eq
  rw [wordHi_toNat, wordOfBytes_toNat]
  have := hi.isLt
  have := lo.isLt
  omega

@[simp] theorem wordLo_wordOfBytes (hi lo : Byte) : wordLo (wordOfBytes hi lo) = lo := by
  apply BitVec.eq_of_toNat_eq
  rw [wordLo_toNat, wordOfBytes_toNat]
  have := hi.isLt
  have := lo.isLt
  omega

/-! ### A word is its fields (R91) -/

theorem wordNNN_fields (op : Word) : wordNNN (opClass op) (opNNN op) = op := by
  apply BitVec.eq_of_toNat_eq
  rw [wordNNN_toNat, opClass_toNat, opNNN_toNat]
  have := op.isLt
  omega

theorem wordXKK_fields (op : Word) : wordXKK (opClass op) (opX op) (opKK op) = op := by
  apply BitVec.eq_of_toNat_eq
  rw [wordXKK_toNat, opClass_toNat, opX_toNat, opKK_toNat]
  have := op.isLt
  omega

theorem wordXYN_fields (op : Word) : wordXYN (opClass op) (opX op) (opY op) (opN op) = op := by
  apply BitVec.eq_of_toNat_eq
  rw [wordXYN_toNat, opClass_toNat, opX_toNat, opY_toNat, opN_toNat]
  have := op.isLt
  omega

/-! ### Masking a word (R95) -/

theorem wordXYN_and (c c' : BitVec 4) (x x' y y' : Reg) (n n' : Nibble) :
    wordXYN c x y n &&& wordXYN c' x' y' n' = wordXYN (c &&& c') (x &&& x') (y &&& y') (n &&& n') := by
  have h : (c ++ x) &&& (c' ++ x') = (c &&& c') ++ (x &&& x') := BitVec.and_append
  have h' : (c ++ x ++ y) &&& (c' ++ x' ++ y') = (c ++ x &&& c' ++ x') ++ (y &&& y') := BitVec.and_append
  exact BitVec.and_append.trans (by rw [h', h]; rfl)

theorem wordXKK_and (c c' : BitVec 4) (x x' : Reg) (kk kk' : Byte) :
    wordXKK c x kk &&& wordXKK c' x' kk' = wordXKK (c &&& c') (x &&& x') (kk &&& kk') := by
  have h : (c ++ x) &&& (c' ++ x') = (c &&& c') ++ (x &&& x') := BitVec.and_append
  exact BitVec.and_append.trans (by rw [h]; rfl)

theorem wordNNN_and (c c' : BitVec 4) (nnn nnn' : Addr12) :
    wordNNN c nnn &&& wordNNN c' nnn' = wordNNN (c &&& c') (nnn &&& nnn') :=
  BitVec.and_append

theorem and_zero_field {w : Nat} (a : BitVec w) : a &&& (0 : BitVec w) = 0 := BitVec.and_zero

/-- The mask 0xF000 keeps the class. -/
theorem wordNNN_mask (c : BitVec 4) (nnn : Addr12) : wordNNN c nnn &&& 0xF000#16 = wordNNN c 0 := by
  rw [show (0xF000#16) = wordNNN 0xF 0 from rfl, wordNNN_and]
  congr 1
  · exact BitVec.and_allOnes
  · exact and_zero_field _

/-- The mask 0xF000 keeps the class. -/
theorem wordXKK_mask (c : BitVec 4) (x : Reg) (kk : Byte) : wordXKK c x kk &&& 0xF000#16 = wordNNN c 0 := by
  rw [show (0xF000#16) = wordXKK 0xF 0 0 from rfl, wordXKK_and,
    show c &&& 0xF = c from BitVec.and_allOnes, and_zero_field, and_zero_field]
  exact BitVec.eq_of_toNat_eq (by simp [wordXKK_toNat, wordNNN_toNat])

/-- The mask 0xF000 keeps the class. -/
theorem wordXYN_mask (c : BitVec 4) (x y : Reg) (n : Nibble) : wordXYN c x y n &&& 0xF000#16 = wordNNN c 0 := by
  rw [show (0xF000#16) = wordXYN 0xF 0 0 0 from rfl, wordXYN_and,
    show c &&& 0xF = c from BitVec.and_allOnes, and_zero_field, and_zero_field, and_zero_field]
  exact BitVec.eq_of_toNat_eq (by simp [wordXYN_toNat, wordNNN_toNat])

/-- The mask 0xF00F keeps the class and the low nibble. -/
theorem wordXYN_maskN (c : BitVec 4) (x y : Reg) (n : Nibble) : wordXYN c x y n &&& 0xF00F#16 = wordXYN c 0 0 n := by
  rw [show (0xF00F#16) = wordXYN 0xF 0 0 0xF from rfl, wordXYN_and,
    show c &&& 0xF = c from BitVec.and_allOnes, and_zero_field, and_zero_field,
    show n &&& 0xF = n from BitVec.and_allOnes]

/-- The mask 0xF0FF keeps the class and the low byte. -/
theorem wordXKK_maskKK (c : BitVec 4) (x : Reg) (kk : Byte) : wordXKK c x kk &&& 0xF0FF#16 = wordXKK c 0 kk := by
  rw [show (0xF0FF#16) = wordXKK 0xF 0 0xFF from rfl, wordXKK_and,
    show c &&& 0xF = c from BitVec.and_allOnes, and_zero_field,
    show kk &&& 0xFF = kk from BitVec.and_allOnes]

end Sys2Proof
end

