-- ==== Sys2Proof/Laws/Memory.lean ====
section
/-! SUPPORT. The memory laws (20_memory.md R60 to R62): a read after a write, that every memory operation keeps the
canonical form, and that canonical memories with the same bytes are the same list. -/

namespace Sys2Proof.Machine

/-! ### One cell -/

/-- A cell list in canonical form from `lo` on has no cell below `lo`. -/
theorem Memory.lookup_below {lo a : Nat} {m : Memory} (h : Memory.wfFrom lo m = true) (ha : a < lo) :
    Memory.lookup a m = Memory.resetByte a := by
  induction m generalizing lo with
  | nil => rfl
  | cons c m ih =>
    obtain ⟨b, v⟩ := c
    simp only [Memory.wfFrom, Bool.and_eq_true, decide_eq_true_eq] at h
    have hne : a ≠ b := by omega
    simp only [Memory.lookup, hne, if_false]
    exact ih h.2 (by omega)

/-- The canonical form from a higher address is one from a lower. -/
theorem Memory.wfFrom_mono {lo hi : Nat} {m : Memory} (hle : lo ≤ hi) (h : Memory.wfFrom hi m = true) :
    Memory.wfFrom lo m = true := by
  cases m with
  | nil => rfl
  | cons c m =>
    obtain ⟨b, v⟩ := c
    simp only [Memory.wfFrom, Bool.and_eq_true, decide_eq_true_eq] at h ⊢
    exact ⟨⟨⟨by omega, h.1.1.2⟩, h.1.2⟩, h.2⟩

/-- A lookup after an insertion into a canonical list. -/
theorem Memory.lookup_insert {lo : Nat} {m : Memory} (h : Memory.wfFrom lo m = true) (a b : Nat) (v : Byte) :
    Memory.lookup b (Memory.insert a v m) = if b = a then v else Memory.lookup b m := by
  induction m generalizing lo with
  | nil =>
    by_cases hv : v = Memory.resetByte a <;> by_cases hb : b = a <;> simp [Memory.insert, Memory.lookup, hv, hb]
  | cons c m ih =>
    obtain ⟨d, w⟩ := c
    have hm : Memory.wfFrom (d + 1) m = true := by
      simp only [Memory.wfFrom, Bool.and_eq_true] at h; exact h.2
    simp only [Memory.insert]
    split
    · rename_i hlt
      split
      · rename_i hv
        by_cases hb : b = a
        · subst hb
          have hne : b ≠ d := by omega
          simp [Memory.lookup, hne, Memory.lookup_below hm (by omega : b < d + 1), hv]
        · simp [hb]
      · simp [Memory.lookup]
    · split
      · rename_i had
        subst had
        split
        · rename_i hv
          by_cases hb : b = a
          · subst hb
            simp [Memory.lookup_below hm (Nat.lt_succ_self b), hv]
          · simp [Memory.lookup, hb]
        · by_cases hb : b = a <;> simp [Memory.lookup, hb]
      · rename_i hnlt hne
        by_cases hb : b = d
        · subst hb
          have : b ≠ a := fun e => hne e.symm
          simp [Memory.lookup, this]
        · simp only [Memory.lookup, hb, if_false]
          exact ih hm

/-- An insertion below 4096 keeps the canonical form. -/
theorem Memory.wfFrom_insert {lo a : Nat} {m : Memory} (h : Memory.wfFrom lo m = true) (v : Byte) (hlo : lo ≤ a)
    (ha : a < 4096) : Memory.wfFrom lo (Memory.insert a v m) = true := by
  induction m generalizing lo with
  | nil => by_cases hv : v = Memory.resetByte a <;> simp_all [Memory.insert, Memory.wfFrom]
  | cons c m ih =>
    obtain ⟨d, w⟩ := c
    have h' := h
    simp only [Memory.wfFrom, Bool.and_eq_true, decide_eq_true_eq] at h'
    obtain ⟨⟨⟨hd, hdm⟩, hw⟩, hm⟩ := h'
    simp only [Memory.insert]
    split
    · split
      · exact h
      · rename_i hlt hv
        simp only [Memory.wfFrom, Bool.and_eq_true, decide_eq_true_eq]
        exact ⟨⟨⟨hlo, ha⟩, hv⟩, ⟨⟨by omega, hdm⟩, hw⟩, hm⟩
    · split
      · rename_i had
        subst had
        split
        · exact Memory.wfFrom_mono (by omega) hm
        · rename_i hv
          simp only [Memory.wfFrom, Bool.and_eq_true, decide_eq_true_eq]
          exact ⟨⟨⟨hlo, ha⟩, hv⟩, hm⟩
      · simp only [Memory.wfFrom, Bool.and_eq_true, decide_eq_true_eq]
        exact ⟨⟨⟨hd, hdm⟩, hw⟩, ih hm (by omega)⟩

/-! ### Reads and writes (R61, R62) -/

@[simp] theorem Memory.wf_nil : Memory.wf [] = true := rfl

/-- A write keeps the canonical form. -/
theorem Memory.wf_write {m : Memory} (h : Memory.wf m = true) (a : Nat) (v : Byte) :
    Memory.wf (Memory.write m a v) = true :=
  Memory.wfFrom_insert h v (Nat.zero_le _) (Nat.mod_lt _ (by decide))

/-- Writing several bytes keeps the canonical form. -/
theorem Memory.wf_writeBytes {m : Memory} (h : Memory.wf m = true) (a : Nat) (vs : List Byte) :
    Memory.wf (Memory.writeBytes m a vs) = true := by
  induction vs generalizing m a with
  | nil => exact h
  | cons v vs ih => exact ih (Memory.wf_write h a v) _

/-- A read after a write: the byte written at every address equal modulo 4096, and every other byte as before. -/
theorem Memory.read_write {m : Memory} (h : Memory.wf m = true) (a b : Nat) (v : Byte) :
    Memory.read (Memory.write m a v) b = if b % 4096 = a % 4096 then v else Memory.read m b :=
  Memory.lookup_insert h _ _ v

/-- A read of memory in which nothing is listed. -/
theorem Memory.read_nil (a : Nat) : Memory.read [] a = Memory.resetByte (a % 4096) := rfl

/-- A read depends on the address modulo 4096 only. -/
theorem Memory.read_congr (m : Memory) {a b : Nat} (h : a % 4096 = b % 4096) :
    Memory.read m a = Memory.read m b := by
  unfold Memory.read
  rw [h]

/-- A read outside the bytes written: as before. -/
theorem Memory.read_writeBytes_outside {m : Memory} (h : Memory.wf m = true) (a b : Nat) (vs : List Byte)
    (hb : ∀ k < vs.length, b % 4096 ≠ (a + k) % 4096) :
    Memory.read (Memory.writeBytes m a vs) b = Memory.read m b := by
  induction vs generalizing m a with
  | nil => rfl
  | cons v vs ih =>
    have h0 := hb 0 (by simp)
    simp only [Nat.add_zero] at h0
    rw [Memory.writeBytes, ih (Memory.wf_write h a v), Memory.read_write h, if_neg h0]
    intro k hk
    have := hb (k + 1) (by simpa using hk)
    rwa [show a + (k + 1) = a + 1 + k by omega] at this

/-- A read of the `k`-th byte written: that byte, as long as the block does not wrap onto itself. -/
theorem Memory.read_writeBytes {m : Memory} (h : Memory.wf m = true) (a b : Nat) (vs : List Byte)
    (hlen : vs.length ≤ 4096) (k : Nat) (hk : k < vs.length) (hb : b % 4096 = (a + k) % 4096) :
    Memory.read (Memory.writeBytes m a vs) b = vs[k] := by
  induction vs generalizing m a k with
  | nil => exact absurd hk (by simp)
  | cons v vs ih =>
    rw [Memory.writeBytes]
    simp only [List.length_cons] at hlen hk
    cases k with
    | zero =>
      rw [Memory.read_writeBytes_outside (Memory.wf_write h a v), Memory.read_write h, if_pos (by simpa using hb)]
      · rfl
      · intro j hj
        rw [hb]
        omega
    | succ k =>
      rw [ih (Memory.wf_write h a v) (a + 1) (by omega) k (by omega)
        (by rw [hb, show a + (k + 1) = a + 1 + k by omega])]
      rfl

/-! ### Blocks of bytes -/

@[simp] theorem Memory.length_readBytes (m : Memory) (a n : Nat) : (Memory.readBytes m a n).length = n := by
  simp [Memory.readBytes]

@[simp] theorem Memory.getElem_readBytes (m : Memory) (a n k : Nat) (hk : k < (Memory.readBytes m a n).length) :
    (Memory.readBytes m a n)[k] = Memory.read m (a + k) := by
  simp [Memory.readBytes]

/-! ### Canonical memories are equal when they read the same -/

/-- Two canonical lists from `lo` on that look up the same are the same list. -/
theorem Memory.wfFrom_ext {lo : Nat} {m₁ m₂ : Memory} (h₁ : Memory.wfFrom lo m₁ = true)
    (h₂ : Memory.wfFrom lo m₂ = true) (h : ∀ a < 4096, Memory.lookup a m₁ = Memory.lookup a m₂) : m₁ = m₂ := by
  induction m₁ generalizing lo m₂ with
  | nil =>
    cases m₂ with
    | nil => rfl
    | cons c m =>
      obtain ⟨d, w⟩ := c
      simp only [Memory.wfFrom, Bool.and_eq_true, decide_eq_true_eq] at h₂
      have := h d h₂.1.1.2
      simp only [Memory.lookup, if_true] at this
      exact absurd this.symm h₂.1.2
  | cons c₁ m₁ ih =>
    obtain ⟨d₁, w₁⟩ := c₁
    have h₁' := h₁
    simp only [Memory.wfFrom, Bool.and_eq_true, decide_eq_true_eq] at h₁
    cases m₂ with
    | nil =>
      have := h d₁ h₁.1.1.2
      simp only [Memory.lookup, if_true] at this
      exact absurd this h₁.1.2
    | cons c₂ m₂ =>
      obtain ⟨d₂, w₂⟩ := c₂
      simp only [Memory.wfFrom, Bool.and_eq_true, decide_eq_true_eq] at h₂
      have hd : d₁ = d₂ := by
        rcases Nat.lt_trichotomy d₁ d₂ with hlt | heq | hgt
        · have := h d₁ h₁.1.1.2
          simp only [Memory.lookup, if_true, Nat.ne_of_lt hlt, if_false] at this
          rw [Memory.lookup_below h₂.2 (by omega)] at this
          exact absurd this h₁.1.2
        · exact heq
        · have := h d₂ h₂.1.1.2
          simp only [Memory.lookup, if_true, Nat.ne_of_lt hgt, if_false] at this
          rw [Memory.lookup_below h₁.2 (by omega)] at this
          exact absurd this.symm h₂.1.2
      subst hd
      have hw : w₁ = w₂ := by simpa [Memory.lookup] using h d₁ h₁.1.1.2
      subst hw
      rw [ih h₁.2 h₂.2]
      intro a ha
      by_cases had : a = d₁
      · subst had
        rw [Memory.lookup_below h₁.2 (Nat.lt_succ_self a), Memory.lookup_below h₂.2 (Nat.lt_succ_self a)]
      · simpa [Memory.lookup, had] using h a ha

/-- Canonical memories that read the same everywhere are equal. -/
theorem Memory.ext_read {m₁ m₂ : Memory} (h₁ : Memory.wf m₁ = true) (h₂ : Memory.wf m₂ = true)
    (h : ∀ a, Memory.read m₁ a = Memory.read m₂ a) : m₁ = m₂ :=
  Memory.wfFrom_ext h₁ h₂ fun a ha => by
    have := h a
    unfold Memory.read at this
    rwa [Nat.mod_eq_of_lt ha] at this

end Sys2Proof.Machine
end

