-- ==== Sys2Proof/Laws/PerInstr.lean ====
section
/-! SUPPORT. One statement per instruction, about the instruction as syntax: its word, under its row's mask, is its row's
match (30_encoding.md R95). -/

namespace Sys2Proof.Laws.EncodeRow

/-- The word of `i` is selected by the row of `i` in the opcode map R95. -/
def Statement (i : Instr) : Prop := encode i &&& maskOf i = matchOf i

theorem cls : Statement .cls := by unfold Statement; decide

theorem ret : Statement .ret := by unfold Statement; decide

theorem sys (nnn : Addr12) : Statement (.sys nnn) := wordNNN_mask 0x0 nnn

theorem jp (nnn : Addr12) : Statement (.jp nnn) := wordNNN_mask 0x1 nnn

theorem call (nnn : Addr12) : Statement (.call nnn) := wordNNN_mask 0x2 nnn

theorem seVxKk (x : Reg) (kk : Byte) : Statement (.seVxKk x kk) := wordXKK_mask 0x3 x kk

theorem sneVxKk (x : Reg) (kk : Byte) : Statement (.sneVxKk x kk) := wordXKK_mask 0x4 x kk

theorem seVxVy (x y : Reg) : Statement (.seVxVy x y) := wordXYN_maskN 0x5 x y 0x0

theorem ldVxKk (x : Reg) (kk : Byte) : Statement (.ldVxKk x kk) := wordXKK_mask 0x6 x kk

theorem addVxKk (x : Reg) (kk : Byte) : Statement (.addVxKk x kk) := wordXKK_mask 0x7 x kk

theorem ldVxVy (x y : Reg) : Statement (.ldVxVy x y) := wordXYN_maskN 0x8 x y 0x0

theorem or (x y : Reg) : Statement (.or x y) := wordXYN_maskN 0x8 x y 0x1

theorem and (x y : Reg) : Statement (.and x y) := wordXYN_maskN 0x8 x y 0x2

theorem xor (x y : Reg) : Statement (.xor x y) := wordXYN_maskN 0x8 x y 0x3

theorem addVxVy (x y : Reg) : Statement (.addVxVy x y) := wordXYN_maskN 0x8 x y 0x4

theorem sub (x y : Reg) : Statement (.sub x y) := wordXYN_maskN 0x8 x y 0x5

theorem shr (x y : Reg) : Statement (.shr x y) := wordXYN_maskN 0x8 x y 0x6

theorem subn (x y : Reg) : Statement (.subn x y) := wordXYN_maskN 0x8 x y 0x7

theorem shl (x y : Reg) : Statement (.shl x y) := wordXYN_maskN 0x8 x y 0xE

theorem sneVxVy (x y : Reg) : Statement (.sneVxVy x y) := wordXYN_maskN 0x9 x y 0x0

theorem ldI (nnn : Addr12) : Statement (.ldI nnn) := wordNNN_mask 0xA nnn

theorem jpV0 (nnn : Addr12) : Statement (.jpV0 nnn) := wordNNN_mask 0xB nnn

theorem rnd (x : Reg) (kk : Byte) : Statement (.rnd x kk) := wordXKK_mask 0xC x kk

theorem drw (x y : Reg) (n : Nibble) : Statement (.drw x y n) := wordXYN_mask 0xD x y n

theorem skp (x : Reg) : Statement (.skp x) := wordXKK_maskKK 0xE x 0x9E

theorem sknp (x : Reg) : Statement (.sknp x) := wordXKK_maskKK 0xE x 0xA1

theorem ldVxDt (x : Reg) : Statement (.ldVxDt x) := wordXKK_maskKK 0xF x 0x07

theorem ldVxK (x : Reg) : Statement (.ldVxK x) := wordXKK_maskKK 0xF x 0x0A

theorem ldDtVx (x : Reg) : Statement (.ldDtVx x) := wordXKK_maskKK 0xF x 0x15

theorem ldStVx (x : Reg) : Statement (.ldStVx x) := wordXKK_maskKK 0xF x 0x18

theorem addIVx (x : Reg) : Statement (.addIVx x) := wordXKK_maskKK 0xF x 0x1E

theorem ldFVx (x : Reg) : Statement (.ldFVx x) := wordXKK_maskKK 0xF x 0x29

theorem ldBVx (x : Reg) : Statement (.ldBVx x) := wordXKK_maskKK 0xF x 0x33

theorem ldMiVx (x : Reg) : Statement (.ldMiVx x) := wordXKK_maskKK 0xF x 0x55

theorem ldVxMi (x : Reg) : Statement (.ldVxMi x) := wordXKK_maskKK 0xF x 0x65

end Sys2Proof.Laws.EncodeRow
end

