-- ==== Sys2Proof/Laws/State.lean ====
section
/-! SUPPORT. What each named update of the state does to each field: one simp lemma per field per update, true by rfl, so
that no proof unfolds a record update. -/

namespace Sys2Proof.Machine

/-! ### `State.setReg` -/

@[simp] theorem State.setReg_v (s : State) (x : Reg) (b : Byte) : (s.setReg x b).v = s.v.set x.toNat b x.isLt := rfl
@[simp] theorem State.setReg_i (s : State) (x : Reg) (b : Byte) : (s.setReg x b).i = s.i := rfl
@[simp] theorem State.setReg_pc (s : State) (x : Reg) (b : Byte) : (s.setReg x b).pc = s.pc := rfl
@[simp] theorem State.setReg_sp (s : State) (x : Reg) (b : Byte) : (s.setReg x b).sp = s.sp := rfl
@[simp] theorem State.setReg_stack (s : State) (x : Reg) (b : Byte) : (s.setReg x b).stack = s.stack := rfl
@[simp] theorem State.setReg_dt (s : State) (x : Reg) (b : Byte) : (s.setReg x b).dt = s.dt := rfl
@[simp] theorem State.setReg_st (s : State) (x : Reg) (b : Byte) : (s.setReg x b).st = s.st := rfl
@[simp] theorem State.setReg_run (s : State) (x : Reg) (b : Byte) : (s.setReg x b).run = s.run := rfl
@[simp] theorem State.setReg_cause (s : State) (x : Reg) (b : Byte) : (s.setReg x b).cause = s.cause := rfl
@[simp] theorem State.setReg_info (s : State) (x : Reg) (b : Byte) : (s.setReg x b).info = s.info := rfl
@[simp] theorem State.setReg_wait (s : State) (x : Reg) (b : Byte) : (s.setReg x b).wait = s.wait := rfl
@[simp] theorem State.setReg_fb (s : State) (x : Reg) (b : Byte) : (s.setReg x b).fb = s.fb := rfl
@[simp] theorem State.setReg_mem (s : State) (x : Reg) (b : Byte) : (s.setReg x b).mem = s.mem := rfl
@[simp] theorem State.setReg_presents (s : State) (x : Reg) (b : Byte) : (s.setReg x b).presents = s.presents := rfl
@[simp] theorem State.setReg_inputs (s : State) (x : Reg) (b : Byte) : (s.setReg x b).inputs = s.inputs := rfl
@[simp] theorem State.setReg_pending (s : State) (x : Reg) (b : Byte) : (s.setReg x b).pending = s.pending := rfl
@[simp] theorem State.setReg_drawn (s : State) (x : Reg) (b : Byte) : (s.setReg x b).drawn = s.drawn := rfl

/-! ### `State.setI` -/

@[simp] theorem State.setI_v (s : State) (a : Word) : (s.setI a).v = s.v := rfl
@[simp] theorem State.setI_i (s : State) (a : Word) : (s.setI a).i = a := rfl
@[simp] theorem State.setI_pc (s : State) (a : Word) : (s.setI a).pc = s.pc := rfl
@[simp] theorem State.setI_sp (s : State) (a : Word) : (s.setI a).sp = s.sp := rfl
@[simp] theorem State.setI_stack (s : State) (a : Word) : (s.setI a).stack = s.stack := rfl
@[simp] theorem State.setI_dt (s : State) (a : Word) : (s.setI a).dt = s.dt := rfl
@[simp] theorem State.setI_st (s : State) (a : Word) : (s.setI a).st = s.st := rfl
@[simp] theorem State.setI_run (s : State) (a : Word) : (s.setI a).run = s.run := rfl
@[simp] theorem State.setI_cause (s : State) (a : Word) : (s.setI a).cause = s.cause := rfl
@[simp] theorem State.setI_info (s : State) (a : Word) : (s.setI a).info = s.info := rfl
@[simp] theorem State.setI_wait (s : State) (a : Word) : (s.setI a).wait = s.wait := rfl
@[simp] theorem State.setI_fb (s : State) (a : Word) : (s.setI a).fb = s.fb := rfl
@[simp] theorem State.setI_mem (s : State) (a : Word) : (s.setI a).mem = s.mem := rfl
@[simp] theorem State.setI_presents (s : State) (a : Word) : (s.setI a).presents = s.presents := rfl
@[simp] theorem State.setI_inputs (s : State) (a : Word) : (s.setI a).inputs = s.inputs := rfl
@[simp] theorem State.setI_pending (s : State) (a : Word) : (s.setI a).pending = s.pending := rfl
@[simp] theorem State.setI_drawn (s : State) (a : Word) : (s.setI a).drawn = s.drawn := rfl
@[simp] theorem State.setI_reg (s : State) (a : Word) (r : Reg) : (s.setI a).reg r = s.reg r := rfl

/-! ### `State.setPc` -/

@[simp] theorem State.setPc_v (s : State) (a : Word) : (s.setPc a).v = s.v := rfl
@[simp] theorem State.setPc_i (s : State) (a : Word) : (s.setPc a).i = s.i := rfl
@[simp] theorem State.setPc_pc (s : State) (a : Word) : (s.setPc a).pc = a := rfl
@[simp] theorem State.setPc_sp (s : State) (a : Word) : (s.setPc a).sp = s.sp := rfl
@[simp] theorem State.setPc_stack (s : State) (a : Word) : (s.setPc a).stack = s.stack := rfl
@[simp] theorem State.setPc_dt (s : State) (a : Word) : (s.setPc a).dt = s.dt := rfl
@[simp] theorem State.setPc_st (s : State) (a : Word) : (s.setPc a).st = s.st := rfl
@[simp] theorem State.setPc_run (s : State) (a : Word) : (s.setPc a).run = s.run := rfl
@[simp] theorem State.setPc_cause (s : State) (a : Word) : (s.setPc a).cause = s.cause := rfl
@[simp] theorem State.setPc_info (s : State) (a : Word) : (s.setPc a).info = s.info := rfl
@[simp] theorem State.setPc_wait (s : State) (a : Word) : (s.setPc a).wait = s.wait := rfl
@[simp] theorem State.setPc_fb (s : State) (a : Word) : (s.setPc a).fb = s.fb := rfl
@[simp] theorem State.setPc_mem (s : State) (a : Word) : (s.setPc a).mem = s.mem := rfl
@[simp] theorem State.setPc_presents (s : State) (a : Word) : (s.setPc a).presents = s.presents := rfl
@[simp] theorem State.setPc_inputs (s : State) (a : Word) : (s.setPc a).inputs = s.inputs := rfl
@[simp] theorem State.setPc_pending (s : State) (a : Word) : (s.setPc a).pending = s.pending := rfl
@[simp] theorem State.setPc_drawn (s : State) (a : Word) : (s.setPc a).drawn = s.drawn := rfl
@[simp] theorem State.setPc_reg (s : State) (a : Word) (r : Reg) : (s.setPc a).reg r = s.reg r := rfl

/-! ### `State.setDt` -/

@[simp] theorem State.setDt_v (s : State) (b : Byte) : (s.setDt b).v = s.v := rfl
@[simp] theorem State.setDt_i (s : State) (b : Byte) : (s.setDt b).i = s.i := rfl
@[simp] theorem State.setDt_pc (s : State) (b : Byte) : (s.setDt b).pc = s.pc := rfl
@[simp] theorem State.setDt_sp (s : State) (b : Byte) : (s.setDt b).sp = s.sp := rfl
@[simp] theorem State.setDt_stack (s : State) (b : Byte) : (s.setDt b).stack = s.stack := rfl
@[simp] theorem State.setDt_dt (s : State) (b : Byte) : (s.setDt b).dt = b := rfl
@[simp] theorem State.setDt_st (s : State) (b : Byte) : (s.setDt b).st = s.st := rfl
@[simp] theorem State.setDt_run (s : State) (b : Byte) : (s.setDt b).run = s.run := rfl
@[simp] theorem State.setDt_cause (s : State) (b : Byte) : (s.setDt b).cause = s.cause := rfl
@[simp] theorem State.setDt_info (s : State) (b : Byte) : (s.setDt b).info = s.info := rfl
@[simp] theorem State.setDt_wait (s : State) (b : Byte) : (s.setDt b).wait = s.wait := rfl
@[simp] theorem State.setDt_fb (s : State) (b : Byte) : (s.setDt b).fb = s.fb := rfl
@[simp] theorem State.setDt_mem (s : State) (b : Byte) : (s.setDt b).mem = s.mem := rfl
@[simp] theorem State.setDt_presents (s : State) (b : Byte) : (s.setDt b).presents = s.presents := rfl
@[simp] theorem State.setDt_inputs (s : State) (b : Byte) : (s.setDt b).inputs = s.inputs := rfl
@[simp] theorem State.setDt_pending (s : State) (b : Byte) : (s.setDt b).pending = s.pending := rfl
@[simp] theorem State.setDt_drawn (s : State) (b : Byte) : (s.setDt b).drawn = s.drawn := rfl
@[simp] theorem State.setDt_reg (s : State) (b : Byte) (r : Reg) : (s.setDt b).reg r = s.reg r := rfl

/-! ### `State.setSt` -/

@[simp] theorem State.setSt_v (s : State) (b : Byte) : (s.setSt b).v = s.v := rfl
@[simp] theorem State.setSt_i (s : State) (b : Byte) : (s.setSt b).i = s.i := rfl
@[simp] theorem State.setSt_pc (s : State) (b : Byte) : (s.setSt b).pc = s.pc := rfl
@[simp] theorem State.setSt_sp (s : State) (b : Byte) : (s.setSt b).sp = s.sp := rfl
@[simp] theorem State.setSt_stack (s : State) (b : Byte) : (s.setSt b).stack = s.stack := rfl
@[simp] theorem State.setSt_dt (s : State) (b : Byte) : (s.setSt b).dt = s.dt := rfl
@[simp] theorem State.setSt_st (s : State) (b : Byte) : (s.setSt b).st = b := rfl
@[simp] theorem State.setSt_run (s : State) (b : Byte) : (s.setSt b).run = s.run := rfl
@[simp] theorem State.setSt_cause (s : State) (b : Byte) : (s.setSt b).cause = s.cause := rfl
@[simp] theorem State.setSt_info (s : State) (b : Byte) : (s.setSt b).info = s.info := rfl
@[simp] theorem State.setSt_wait (s : State) (b : Byte) : (s.setSt b).wait = s.wait := rfl
@[simp] theorem State.setSt_fb (s : State) (b : Byte) : (s.setSt b).fb = s.fb := rfl
@[simp] theorem State.setSt_mem (s : State) (b : Byte) : (s.setSt b).mem = s.mem := rfl
@[simp] theorem State.setSt_presents (s : State) (b : Byte) : (s.setSt b).presents = s.presents := rfl
@[simp] theorem State.setSt_inputs (s : State) (b : Byte) : (s.setSt b).inputs = s.inputs := rfl
@[simp] theorem State.setSt_pending (s : State) (b : Byte) : (s.setSt b).pending = s.pending := rfl
@[simp] theorem State.setSt_drawn (s : State) (b : Byte) : (s.setSt b).drawn = s.drawn := rfl
@[simp] theorem State.setSt_reg (s : State) (b : Byte) (r : Reg) : (s.setSt b).reg r = s.reg r := rfl

/-! ### `State.setWait` -/

@[simp] theorem State.setWait_v (s : State) (w : Wait) : (s.setWait w).v = s.v := rfl
@[simp] theorem State.setWait_i (s : State) (w : Wait) : (s.setWait w).i = s.i := rfl
@[simp] theorem State.setWait_pc (s : State) (w : Wait) : (s.setWait w).pc = s.pc := rfl
@[simp] theorem State.setWait_sp (s : State) (w : Wait) : (s.setWait w).sp = s.sp := rfl
@[simp] theorem State.setWait_stack (s : State) (w : Wait) : (s.setWait w).stack = s.stack := rfl
@[simp] theorem State.setWait_dt (s : State) (w : Wait) : (s.setWait w).dt = s.dt := rfl
@[simp] theorem State.setWait_st (s : State) (w : Wait) : (s.setWait w).st = s.st := rfl
@[simp] theorem State.setWait_run (s : State) (w : Wait) : (s.setWait w).run = s.run := rfl
@[simp] theorem State.setWait_cause (s : State) (w : Wait) : (s.setWait w).cause = s.cause := rfl
@[simp] theorem State.setWait_info (s : State) (w : Wait) : (s.setWait w).info = s.info := rfl
@[simp] theorem State.setWait_wait (s : State) (w : Wait) : (s.setWait w).wait = w := rfl
@[simp] theorem State.setWait_fb (s : State) (w : Wait) : (s.setWait w).fb = s.fb := rfl
@[simp] theorem State.setWait_mem (s : State) (w : Wait) : (s.setWait w).mem = s.mem := rfl
@[simp] theorem State.setWait_presents (s : State) (w : Wait) : (s.setWait w).presents = s.presents := rfl
@[simp] theorem State.setWait_inputs (s : State) (w : Wait) : (s.setWait w).inputs = s.inputs := rfl
@[simp] theorem State.setWait_pending (s : State) (w : Wait) : (s.setWait w).pending = s.pending := rfl
@[simp] theorem State.setWait_drawn (s : State) (w : Wait) : (s.setWait w).drawn = s.drawn := rfl
@[simp] theorem State.setWait_reg (s : State) (w : Wait) (r : Reg) : (s.setWait w).reg r = s.reg r := rfl

/-! ### `State.setMem` -/

@[simp] theorem State.setMem_v (s : State) (m : Memory) : (s.setMem m).v = s.v := rfl
@[simp] theorem State.setMem_i (s : State) (m : Memory) : (s.setMem m).i = s.i := rfl
@[simp] theorem State.setMem_pc (s : State) (m : Memory) : (s.setMem m).pc = s.pc := rfl
@[simp] theorem State.setMem_sp (s : State) (m : Memory) : (s.setMem m).sp = s.sp := rfl
@[simp] theorem State.setMem_stack (s : State) (m : Memory) : (s.setMem m).stack = s.stack := rfl
@[simp] theorem State.setMem_dt (s : State) (m : Memory) : (s.setMem m).dt = s.dt := rfl
@[simp] theorem State.setMem_st (s : State) (m : Memory) : (s.setMem m).st = s.st := rfl
@[simp] theorem State.setMem_run (s : State) (m : Memory) : (s.setMem m).run = s.run := rfl
@[simp] theorem State.setMem_cause (s : State) (m : Memory) : (s.setMem m).cause = s.cause := rfl
@[simp] theorem State.setMem_info (s : State) (m : Memory) : (s.setMem m).info = s.info := rfl
@[simp] theorem State.setMem_wait (s : State) (m : Memory) : (s.setMem m).wait = s.wait := rfl
@[simp] theorem State.setMem_fb (s : State) (m : Memory) : (s.setMem m).fb = s.fb := rfl
@[simp] theorem State.setMem_mem (s : State) (m : Memory) : (s.setMem m).mem = m := rfl
@[simp] theorem State.setMem_presents (s : State) (m : Memory) : (s.setMem m).presents = s.presents := rfl
@[simp] theorem State.setMem_inputs (s : State) (m : Memory) : (s.setMem m).inputs = s.inputs := rfl
@[simp] theorem State.setMem_pending (s : State) (m : Memory) : (s.setMem m).pending = s.pending := rfl
@[simp] theorem State.setMem_drawn (s : State) (m : Memory) : (s.setMem m).drawn = s.drawn := rfl
@[simp] theorem State.setMem_reg (s : State) (m : Memory) (r : Reg) : (s.setMem m).reg r = s.reg r := rfl

/-! ### `State.advancePc` -/

@[simp] theorem State.advancePc_v (s : State) : (s.advancePc).v = s.v := rfl
@[simp] theorem State.advancePc_i (s : State) : (s.advancePc).i = s.i := rfl
@[simp] theorem State.advancePc_pc (s : State) : (s.advancePc).pc = s.pc + 2#16 := rfl
@[simp] theorem State.advancePc_sp (s : State) : (s.advancePc).sp = s.sp := rfl
@[simp] theorem State.advancePc_stack (s : State) : (s.advancePc).stack = s.stack := rfl
@[simp] theorem State.advancePc_dt (s : State) : (s.advancePc).dt = s.dt := rfl
@[simp] theorem State.advancePc_st (s : State) : (s.advancePc).st = s.st := rfl
@[simp] theorem State.advancePc_run (s : State) : (s.advancePc).run = s.run := rfl
@[simp] theorem State.advancePc_cause (s : State) : (s.advancePc).cause = s.cause := rfl
@[simp] theorem State.advancePc_info (s : State) : (s.advancePc).info = s.info := rfl
@[simp] theorem State.advancePc_wait (s : State) : (s.advancePc).wait = s.wait := rfl
@[simp] theorem State.advancePc_fb (s : State) : (s.advancePc).fb = s.fb := rfl
@[simp] theorem State.advancePc_mem (s : State) : (s.advancePc).mem = s.mem := rfl
@[simp] theorem State.advancePc_presents (s : State) : (s.advancePc).presents = s.presents := rfl
@[simp] theorem State.advancePc_inputs (s : State) : (s.advancePc).inputs = s.inputs := rfl
@[simp] theorem State.advancePc_pending (s : State) : (s.advancePc).pending = s.pending := rfl
@[simp] theorem State.advancePc_drawn (s : State) : (s.advancePc).drawn = s.drawn := rfl
@[simp] theorem State.advancePc_reg (s : State) (r : Reg) : (s.advancePc).reg r = s.reg r := rfl

/-! ### `State.raise` -/

@[simp] theorem State.raise_v (s : State) (c : Cause) (a : Word) : (s.raise c a).v = s.v := rfl
@[simp] theorem State.raise_i (s : State) (c : Cause) (a : Word) : (s.raise c a).i = s.i := rfl
@[simp] theorem State.raise_pc (s : State) (c : Cause) (a : Word) : (s.raise c a).pc = s.pc := rfl
@[simp] theorem State.raise_sp (s : State) (c : Cause) (a : Word) : (s.raise c a).sp = s.sp := rfl
@[simp] theorem State.raise_stack (s : State) (c : Cause) (a : Word) : (s.raise c a).stack = s.stack := rfl
@[simp] theorem State.raise_dt (s : State) (c : Cause) (a : Word) : (s.raise c a).dt = s.dt := rfl
@[simp] theorem State.raise_st (s : State) (c : Cause) (a : Word) : (s.raise c a).st = s.st := rfl
@[simp] theorem State.raise_run (s : State) (c : Cause) (a : Word) : (s.raise c a).run = .halted := rfl
@[simp] theorem State.raise_cause (s : State) (c : Cause) (a : Word) : (s.raise c a).cause = c := rfl
@[simp] theorem State.raise_info (s : State) (c : Cause) (a : Word) : (s.raise c a).info = a := rfl
@[simp] theorem State.raise_wait (s : State) (c : Cause) (a : Word) : (s.raise c a).wait = s.wait := rfl
@[simp] theorem State.raise_fb (s : State) (c : Cause) (a : Word) : (s.raise c a).fb = s.fb := rfl
@[simp] theorem State.raise_mem (s : State) (c : Cause) (a : Word) : (s.raise c a).mem = s.mem := rfl
@[simp] theorem State.raise_presents (s : State) (c : Cause) (a : Word) : (s.raise c a).presents = s.presents := rfl
@[simp] theorem State.raise_inputs (s : State) (c : Cause) (a : Word) : (s.raise c a).inputs = s.inputs := rfl
@[simp] theorem State.raise_pending (s : State) (c : Cause) (a : Word) : (s.raise c a).pending = s.pending := rfl
@[simp] theorem State.raise_drawn (s : State) (c : Cause) (a : Word) : (s.raise c a).drawn = s.drawn := rfl
@[simp] theorem State.raise_reg (s : State) (c : Cause) (a : Word) (r : Reg) : (s.raise c a).reg r = s.reg r := rfl

/-! ### `State.present` -/

@[simp] theorem State.present_v (s : State) (f : Framebuffer) : (s.present f).v = s.v := rfl
@[simp] theorem State.present_i (s : State) (f : Framebuffer) : (s.present f).i = s.i := rfl
@[simp] theorem State.present_pc (s : State) (f : Framebuffer) : (s.present f).pc = s.pc := rfl
@[simp] theorem State.present_sp (s : State) (f : Framebuffer) : (s.present f).sp = s.sp := rfl
@[simp] theorem State.present_stack (s : State) (f : Framebuffer) : (s.present f).stack = s.stack := rfl
@[simp] theorem State.present_dt (s : State) (f : Framebuffer) : (s.present f).dt = s.dt := rfl
@[simp] theorem State.present_st (s : State) (f : Framebuffer) : (s.present f).st = s.st := rfl
@[simp] theorem State.present_run (s : State) (f : Framebuffer) : (s.present f).run = s.run := rfl
@[simp] theorem State.present_cause (s : State) (f : Framebuffer) : (s.present f).cause = s.cause := rfl
@[simp] theorem State.present_info (s : State) (f : Framebuffer) : (s.present f).info = s.info := rfl
@[simp] theorem State.present_wait (s : State) (f : Framebuffer) : (s.present f).wait = s.wait := rfl
@[simp] theorem State.present_fb (s : State) (f : Framebuffer) : (s.present f).fb = f := rfl
@[simp] theorem State.present_mem (s : State) (f : Framebuffer) : (s.present f).mem = s.mem := rfl
@[simp] theorem State.present_presents (s : State) (f : Framebuffer) : (s.present f).presents = f :: s.presents := rfl
@[simp] theorem State.present_inputs (s : State) (f : Framebuffer) : (s.present f).inputs = s.inputs := rfl
@[simp] theorem State.present_pending (s : State) (f : Framebuffer) : (s.present f).pending = s.pending := rfl
@[simp] theorem State.present_drawn (s : State) (f : Framebuffer) : (s.present f).drawn = s.drawn := rfl
@[simp] theorem State.present_reg (s : State) (f : Framebuffer) (r : Reg) : (s.present f).reg r = s.reg r := rfl

/-! ### `State.latch` -/

@[simp] theorem State.latch_v (s : State) (c : CycleInputs) : (s.latch c).v = s.v := rfl
@[simp] theorem State.latch_i (s : State) (c : CycleInputs) : (s.latch c).i = s.i := rfl
@[simp] theorem State.latch_pc (s : State) (c : CycleInputs) : (s.latch c).pc = s.pc := rfl
@[simp] theorem State.latch_sp (s : State) (c : CycleInputs) : (s.latch c).sp = s.sp := rfl
@[simp] theorem State.latch_stack (s : State) (c : CycleInputs) : (s.latch c).stack = s.stack := rfl
@[simp] theorem State.latch_dt (s : State) (c : CycleInputs) : (s.latch c).dt = s.dt := rfl
@[simp] theorem State.latch_st (s : State) (c : CycleInputs) : (s.latch c).st = s.st := rfl
@[simp] theorem State.latch_run (s : State) (c : CycleInputs) : (s.latch c).run = s.run := rfl
@[simp] theorem State.latch_cause (s : State) (c : CycleInputs) : (s.latch c).cause = s.cause := rfl
@[simp] theorem State.latch_info (s : State) (c : CycleInputs) : (s.latch c).info = s.info := rfl
@[simp] theorem State.latch_wait (s : State) (c : CycleInputs) : (s.latch c).wait = s.wait := rfl
@[simp] theorem State.latch_fb (s : State) (c : CycleInputs) : (s.latch c).fb = s.fb := rfl
@[simp] theorem State.latch_mem (s : State) (c : CycleInputs) : (s.latch c).mem = s.mem := rfl
@[simp] theorem State.latch_presents (s : State) (c : CycleInputs) : (s.latch c).presents = s.presents := rfl
@[simp] theorem State.latch_inputs (s : State) (c : CycleInputs) : (s.latch c).inputs = c := rfl
@[simp] theorem State.latch_pending (s : State) (c : CycleInputs) : (s.latch c).pending = s.pending := rfl
@[simp] theorem State.latch_drawn (s : State) (c : CycleInputs) : (s.latch c).drawn = s.drawn := rfl
@[simp] theorem State.latch_reg (s : State) (c : CycleInputs) (r : Reg) : (s.latch c).reg r = s.reg r := rfl

/-! ### `State.resultThenFlag` -/

@[simp] theorem State.resultThenFlag_i (s : State) (x : Reg) (b : Byte) (f : Bool) : (s.resultThenFlag x b f).i = s.i := rfl
@[simp] theorem State.resultThenFlag_pc (s : State) (x : Reg) (b : Byte) (f : Bool) : (s.resultThenFlag x b f).pc = s.pc := rfl
@[simp] theorem State.resultThenFlag_sp (s : State) (x : Reg) (b : Byte) (f : Bool) : (s.resultThenFlag x b f).sp = s.sp := rfl
@[simp] theorem State.resultThenFlag_stack (s : State) (x : Reg) (b : Byte) (f : Bool) : (s.resultThenFlag x b f).stack = s.stack := rfl
@[simp] theorem State.resultThenFlag_dt (s : State) (x : Reg) (b : Byte) (f : Bool) : (s.resultThenFlag x b f).dt = s.dt := rfl
@[simp] theorem State.resultThenFlag_st (s : State) (x : Reg) (b : Byte) (f : Bool) : (s.resultThenFlag x b f).st = s.st := rfl
@[simp] theorem State.resultThenFlag_run (s : State) (x : Reg) (b : Byte) (f : Bool) : (s.resultThenFlag x b f).run = s.run := rfl
@[simp] theorem State.resultThenFlag_cause (s : State) (x : Reg) (b : Byte) (f : Bool) : (s.resultThenFlag x b f).cause = s.cause := rfl
@[simp] theorem State.resultThenFlag_info (s : State) (x : Reg) (b : Byte) (f : Bool) : (s.resultThenFlag x b f).info = s.info := rfl
@[simp] theorem State.resultThenFlag_wait (s : State) (x : Reg) (b : Byte) (f : Bool) : (s.resultThenFlag x b f).wait = s.wait := rfl
@[simp] theorem State.resultThenFlag_fb (s : State) (x : Reg) (b : Byte) (f : Bool) : (s.resultThenFlag x b f).fb = s.fb := rfl
@[simp] theorem State.resultThenFlag_mem (s : State) (x : Reg) (b : Byte) (f : Bool) : (s.resultThenFlag x b f).mem = s.mem := rfl
@[simp] theorem State.resultThenFlag_presents (s : State) (x : Reg) (b : Byte) (f : Bool) : (s.resultThenFlag x b f).presents = s.presents := rfl
@[simp] theorem State.resultThenFlag_inputs (s : State) (x : Reg) (b : Byte) (f : Bool) : (s.resultThenFlag x b f).inputs = s.inputs := rfl
@[simp] theorem State.resultThenFlag_pending (s : State) (x : Reg) (b : Byte) (f : Bool) : (s.resultThenFlag x b f).pending = s.pending := rfl
@[simp] theorem State.resultThenFlag_drawn (s : State) (x : Reg) (b : Byte) (f : Bool) : (s.resultThenFlag x b f).drawn = s.drawn := rfl

/-! ### `State.flagThenResult` -/

@[simp] theorem State.flagThenResult_i (s : State) (x : Reg) (b : Byte) (f : Bool) : (s.flagThenResult x b f).i = s.i := rfl
@[simp] theorem State.flagThenResult_pc (s : State) (x : Reg) (b : Byte) (f : Bool) : (s.flagThenResult x b f).pc = s.pc := rfl
@[simp] theorem State.flagThenResult_sp (s : State) (x : Reg) (b : Byte) (f : Bool) : (s.flagThenResult x b f).sp = s.sp := rfl
@[simp] theorem State.flagThenResult_stack (s : State) (x : Reg) (b : Byte) (f : Bool) : (s.flagThenResult x b f).stack = s.stack := rfl
@[simp] theorem State.flagThenResult_dt (s : State) (x : Reg) (b : Byte) (f : Bool) : (s.flagThenResult x b f).dt = s.dt := rfl
@[simp] theorem State.flagThenResult_st (s : State) (x : Reg) (b : Byte) (f : Bool) : (s.flagThenResult x b f).st = s.st := rfl
@[simp] theorem State.flagThenResult_run (s : State) (x : Reg) (b : Byte) (f : Bool) : (s.flagThenResult x b f).run = s.run := rfl
@[simp] theorem State.flagThenResult_cause (s : State) (x : Reg) (b : Byte) (f : Bool) : (s.flagThenResult x b f).cause = s.cause := rfl
@[simp] theorem State.flagThenResult_info (s : State) (x : Reg) (b : Byte) (f : Bool) : (s.flagThenResult x b f).info = s.info := rfl
@[simp] theorem State.flagThenResult_wait (s : State) (x : Reg) (b : Byte) (f : Bool) : (s.flagThenResult x b f).wait = s.wait := rfl
@[simp] theorem State.flagThenResult_fb (s : State) (x : Reg) (b : Byte) (f : Bool) : (s.flagThenResult x b f).fb = s.fb := rfl
@[simp] theorem State.flagThenResult_mem (s : State) (x : Reg) (b : Byte) (f : Bool) : (s.flagThenResult x b f).mem = s.mem := rfl
@[simp] theorem State.flagThenResult_presents (s : State) (x : Reg) (b : Byte) (f : Bool) : (s.flagThenResult x b f).presents = s.presents := rfl
@[simp] theorem State.flagThenResult_inputs (s : State) (x : Reg) (b : Byte) (f : Bool) : (s.flagThenResult x b f).inputs = s.inputs := rfl
@[simp] theorem State.flagThenResult_pending (s : State) (x : Reg) (b : Byte) (f : Bool) : (s.flagThenResult x b f).pending = s.pending := rfl
@[simp] theorem State.flagThenResult_drawn (s : State) (x : Reg) (b : Byte) (f : Bool) : (s.flagThenResult x b f).drawn = s.drawn := rfl

/-! ### `State.loadRegBlock` -/

@[simp] theorem State.loadRegBlock_i (s : State) (x : Reg) : (s.loadRegBlock x).i = s.i := rfl
@[simp] theorem State.loadRegBlock_pc (s : State) (x : Reg) : (s.loadRegBlock x).pc = s.pc := rfl
@[simp] theorem State.loadRegBlock_sp (s : State) (x : Reg) : (s.loadRegBlock x).sp = s.sp := rfl
@[simp] theorem State.loadRegBlock_stack (s : State) (x : Reg) : (s.loadRegBlock x).stack = s.stack := rfl
@[simp] theorem State.loadRegBlock_dt (s : State) (x : Reg) : (s.loadRegBlock x).dt = s.dt := rfl
@[simp] theorem State.loadRegBlock_st (s : State) (x : Reg) : (s.loadRegBlock x).st = s.st := rfl
@[simp] theorem State.loadRegBlock_run (s : State) (x : Reg) : (s.loadRegBlock x).run = s.run := rfl
@[simp] theorem State.loadRegBlock_cause (s : State) (x : Reg) : (s.loadRegBlock x).cause = s.cause := rfl
@[simp] theorem State.loadRegBlock_info (s : State) (x : Reg) : (s.loadRegBlock x).info = s.info := rfl
@[simp] theorem State.loadRegBlock_wait (s : State) (x : Reg) : (s.loadRegBlock x).wait = s.wait := rfl
@[simp] theorem State.loadRegBlock_fb (s : State) (x : Reg) : (s.loadRegBlock x).fb = s.fb := rfl
@[simp] theorem State.loadRegBlock_mem (s : State) (x : Reg) : (s.loadRegBlock x).mem = s.mem := rfl
@[simp] theorem State.loadRegBlock_presents (s : State) (x : Reg) : (s.loadRegBlock x).presents = s.presents := rfl
@[simp] theorem State.loadRegBlock_inputs (s : State) (x : Reg) : (s.loadRegBlock x).inputs = s.inputs := rfl
@[simp] theorem State.loadRegBlock_pending (s : State) (x : Reg) : (s.loadRegBlock x).pending = s.pending := rfl
@[simp] theorem State.loadRegBlock_drawn (s : State) (x : Reg) : (s.loadRegBlock x).drawn = s.drawn := rfl

/-! ### `State.readyToFetch` -/

@[simp] theorem State.readyToFetch_v (s : State) : (s.readyToFetch).v = s.v := rfl
@[simp] theorem State.readyToFetch_i (s : State) : (s.readyToFetch).i = s.i := rfl
@[simp] theorem State.readyToFetch_pc (s : State) : (s.readyToFetch).pc = s.pc := rfl
@[simp] theorem State.readyToFetch_sp (s : State) : (s.readyToFetch).sp = s.sp := rfl
@[simp] theorem State.readyToFetch_stack (s : State) : (s.readyToFetch).stack = s.stack := rfl
@[simp] theorem State.readyToFetch_dt (s : State) : (s.readyToFetch).dt = s.dt := rfl
@[simp] theorem State.readyToFetch_st (s : State) : (s.readyToFetch).st = s.st := rfl
@[simp] theorem State.readyToFetch_run (s : State) : (s.readyToFetch).run = .running := rfl
@[simp] theorem State.readyToFetch_cause (s : State) : (s.readyToFetch).cause = .none := rfl
@[simp] theorem State.readyToFetch_info (s : State) : (s.readyToFetch).info = 0#16 := rfl
@[simp] theorem State.readyToFetch_wait (s : State) : (s.readyToFetch).wait = .none := rfl
@[simp] theorem State.readyToFetch_fb (s : State) : (s.readyToFetch).fb = s.fb := rfl
@[simp] theorem State.readyToFetch_mem (s : State) : (s.readyToFetch).mem = s.mem := rfl
@[simp] theorem State.readyToFetch_presents (s : State) : (s.readyToFetch).presents = s.presents := rfl
@[simp] theorem State.readyToFetch_inputs (s : State) : (s.readyToFetch).inputs = s.inputs := rfl
@[simp] theorem State.readyToFetch_pending (s : State) : (s.readyToFetch).pending = .cycle s.inputs :: s.pending := rfl
@[simp] theorem State.readyToFetch_drawn (s : State) : (s.readyToFetch).drawn = s.drawn := rfl
@[simp] theorem State.readyToFetch_reg (s : State) (r : Reg) : (s.readyToFetch).reg r = s.reg r := rfl

/-! ### `State.skipIf` -/

@[simp] theorem State.skipIf_v (c : Bool) (s : State) : (State.skipIf c s).v = s.v := by
  cases c <;> rfl
@[simp] theorem State.skipIf_i (c : Bool) (s : State) : (State.skipIf c s).i = s.i := by
  cases c <;> rfl
@[simp] theorem State.skipIf_pc (c : Bool) (s : State) : (State.skipIf c s).pc = if c then s.pc + 2#16 else s.pc := by
  cases c <;> rfl
@[simp] theorem State.skipIf_sp (c : Bool) (s : State) : (State.skipIf c s).sp = s.sp := by
  cases c <;> rfl
@[simp] theorem State.skipIf_stack (c : Bool) (s : State) : (State.skipIf c s).stack = s.stack := by
  cases c <;> rfl
@[simp] theorem State.skipIf_dt (c : Bool) (s : State) : (State.skipIf c s).dt = s.dt := by
  cases c <;> rfl
@[simp] theorem State.skipIf_st (c : Bool) (s : State) : (State.skipIf c s).st = s.st := by
  cases c <;> rfl
@[simp] theorem State.skipIf_run (c : Bool) (s : State) : (State.skipIf c s).run = s.run := by
  cases c <;> rfl
@[simp] theorem State.skipIf_cause (c : Bool) (s : State) : (State.skipIf c s).cause = s.cause := by
  cases c <;> rfl
@[simp] theorem State.skipIf_info (c : Bool) (s : State) : (State.skipIf c s).info = s.info := by
  cases c <;> rfl
@[simp] theorem State.skipIf_wait (c : Bool) (s : State) : (State.skipIf c s).wait = s.wait := by
  cases c <;> rfl
@[simp] theorem State.skipIf_fb (c : Bool) (s : State) : (State.skipIf c s).fb = s.fb := by
  cases c <;> rfl
@[simp] theorem State.skipIf_mem (c : Bool) (s : State) : (State.skipIf c s).mem = s.mem := by
  cases c <;> rfl
@[simp] theorem State.skipIf_presents (c : Bool) (s : State) : (State.skipIf c s).presents = s.presents := by
  cases c <;> rfl
@[simp] theorem State.skipIf_inputs (c : Bool) (s : State) : (State.skipIf c s).inputs = s.inputs := by
  cases c <;> rfl
@[simp] theorem State.skipIf_pending (c : Bool) (s : State) : (State.skipIf c s).pending = s.pending := by
  cases c <;> rfl
@[simp] theorem State.skipIf_drawn (c : Bool) (s : State) : (State.skipIf c s).drawn = s.drawn := by
  cases c <;> rfl
@[simp] theorem State.skipIf_reg (c : Bool) (s : State) (r : Reg) : (State.skipIf c s).reg r = s.reg r := by
  cases c <;> rfl

/-! ### `State.takeEvent` -/

@[simp] theorem State.takeEvent_v (s : State) : s.takeEvent.v = s.v := by
  unfold State.takeEvent; split <;> rfl
@[simp] theorem State.takeEvent_i (s : State) : s.takeEvent.i = s.i := by
  unfold State.takeEvent; split <;> rfl
@[simp] theorem State.takeEvent_pc (s : State) : s.takeEvent.pc = s.pc := by
  unfold State.takeEvent; split <;> rfl
@[simp] theorem State.takeEvent_sp (s : State) : s.takeEvent.sp = s.sp := by
  unfold State.takeEvent; split <;> rfl
@[simp] theorem State.takeEvent_stack (s : State) : s.takeEvent.stack = s.stack := by
  unfold State.takeEvent; split <;> rfl
@[simp] theorem State.takeEvent_dt (s : State) : s.takeEvent.dt = s.dt := by
  unfold State.takeEvent; split <;> rfl
@[simp] theorem State.takeEvent_st (s : State) : s.takeEvent.st = s.st := by
  unfold State.takeEvent; split <;> rfl
@[simp] theorem State.takeEvent_run (s : State) : s.takeEvent.run = s.run := by
  unfold State.takeEvent; split <;> rfl
@[simp] theorem State.takeEvent_cause (s : State) : s.takeEvent.cause = s.cause := by
  unfold State.takeEvent; split <;> rfl
@[simp] theorem State.takeEvent_info (s : State) : s.takeEvent.info = s.info := by
  unfold State.takeEvent; split <;> rfl
@[simp] theorem State.takeEvent_wait (s : State) : s.takeEvent.wait = s.wait := by
  unfold State.takeEvent; split <;> rfl
@[simp] theorem State.takeEvent_fb (s : State) : s.takeEvent.fb = s.fb := by
  unfold State.takeEvent; split <;> rfl
@[simp] theorem State.takeEvent_mem (s : State) : s.takeEvent.mem = s.mem := by
  unfold State.takeEvent; split <;> rfl
@[simp] theorem State.takeEvent_presents (s : State) : s.takeEvent.presents = s.presents := by
  unfold State.takeEvent; split <;> rfl
@[simp] theorem State.takeEvent_inputs (s : State) : s.takeEvent.inputs = s.inputs := by
  unfold State.takeEvent; split <;> rfl
@[simp] theorem State.takeEvent_reg (s : State) (r : Reg) : s.takeEvent.reg r = s.reg r := by
  unfold State.takeEvent; split <;> rfl

end Sys2Proof.Machine
end

