-- ==== Sys2Proof/Laws/Registers.lean ====
section
/-! SUPPORT. The register file, the call stack and the environment: what the shared operations of Machine/Ops.lean and
Machine/Flags.lean do, said once. -/

namespace Sys2Proof.Machine

/-! ### Registers (R20, R126) -/

/-- A register read after a register write. -/
@[simp] theorem State.reg_setReg (s : State) (x r : Reg) (b : Byte) :
    (s.setReg x b).reg r = if r = x then b else s.reg r := by
  unfold State.reg State.setReg
  simp only [Vector.getElem_set, BitVec.toNat_inj, eq_comm]

/-- R126, result then flag: VF holds the flag whatever `x` is. -/
@[simp] theorem State.reg_resultThenFlag (s : State) (x r : Reg) (b : Byte) (f : Bool) :
    (s.resultThenFlag x b f).reg r = if r = VF then flagByte f else if r = x then b else s.reg r := by
  simp [State.resultThenFlag]

/-- R126, flag then result: the destination holds the result whatever it is. -/
@[simp] theorem State.reg_flagThenResult (s : State) (x r : Reg) (b : Byte) (f : Bool) :
    (s.flagThenResult x b f).reg r = if r = x then b else if r = VF then flagByte f else s.reg r := by
  simp [State.flagThenResult]

/-- R196: registers 0 to `x` hold the bytes at `I` on, the others are kept. -/
@[simp] theorem State.reg_loadRegBlock (s : State) (x r : Reg) :
    (s.loadRegBlock x).reg r = if r.toNat ≤ x.toNat then Memory.read s.mem (s.i.toNat + r.toNat) else s.reg r := by
  simp [State.reg, State.loadRegBlock, State.effAddr]

/-- Two states with the same registers have the same register file. -/
theorem State.v_ext {s t : State} (h : ∀ r, t.reg r = s.reg r) : t.v = s.v := by
  apply Vector.ext
  intro k hk
  have := h (BitVec.ofNat 4 k)
  simpa [State.reg, Nat.mod_eq_of_lt hk] using this

/-! ### Flag values (R22, R160) -/

@[simp] theorem flagByte_true : flagByte true = 0x01#8 := rfl
@[simp] theorem flagByte_false : flagByte false = 0x00#8 := rfl

/-- A flag value is 0x00 or 0x01. -/
theorem flagByte_cases (f : Bool) : flagByte f = 0x00#8 ∨ flagByte f = 0x01#8 := by cases f <;> simp

/-! ### The call stack (R28, R29) -/

/-- Everything a push can do. -/
theorem State.push_cases (s : State) (a : Word) :
    (∃ h : s.sp.val < 16, s.push a = some { s with stack := s.stack.set s.sp.val a h, sp := ⟨s.sp.val + 1, by omega⟩ }) ∨
    (s.sp = 16 ∧ s.push a = none) := by
  unfold State.push
  by_cases h : s.sp.val < 16
  · exact .inl ⟨h, by simp [h]⟩
  · refine .inr ⟨?_, by simp [h]⟩
    apply Fin.ext
    have := s.sp.isLt
    show s.sp.val = 16
    omega

/-- Everything a pop can do. -/
theorem State.pop_cases (s : State) :
    (∃ h : s.sp.val - 1 < 16, s.sp ≠ 0 ∧
      s.pop = some (s.stack[s.sp.val - 1], { s with sp := ⟨s.sp.val - 1, by omega⟩ })) ∨
    (s.sp = 0 ∧ s.pop = none) := by
  unfold State.pop
  by_cases h : 0 < s.sp.val
  · refine .inl ⟨by have := s.sp.isLt; omega, ?_, by simp [h]⟩
    intro h0
    simp [h0] at h
  · refine .inr ⟨Fin.ext (by show s.sp.val = 0; omega), by simp [h]⟩

/-! ### The environment (R120) -/

/-- Taking an event touches the environment's own fields only. -/
theorem State.takeEvent_eq (s : State) :
    s.takeEvent = { s with pending := s.takeEvent.pending, drawn := s.takeEvent.drawn } := by
  unfold State.takeEvent
  split <;> rfl

end Sys2Proof.Machine
end

