-- ==== Sys2Proof/Laws/Values.lean ====
section
/-! SUPPORT. The values the shared computations give, as numbers: the ALU (42_alu.md R160), immediates and targets (R93, R145,
R192, R193), decimal digits (R194) and the timers (R266). -/

namespace Sys2Proof.Machine

theorem addBytes_toNat (a b : Byte) : (addBytes a b).toNat = (a.toNat + b.toNat) % 256 := by
  simp [addBytes]

theorem subBytes_toNat (a b : Byte) : (subBytes a b).toNat = (a.toNat + 256 - b.toNat) % 256 := by
  have := a.isLt
  have := b.isLt
  simp only [subBytes, BitVec.toNat_ofInt]
  omega

theorem shiftRight1_toNat (a : Byte) : (shiftRight1 a).toNat = a.toNat / 2 := by
  have := a.isLt
  simp only [shiftRight1, BitVec.toNat_ofNat]
  omega

theorem shiftLeft1_toNat (a : Byte) : (shiftLeft1 a).toNat = a.toNat * 2 % 256 := by
  simp [shiftLeft1]

theorem bitOutRight_eq (a : Byte) : bitOutRight a = decide (a.toNat % 2 = 1) := by
  simp [bitOutRight, BitVec.getLsbD, Nat.testBit_zero]

theorem bitOutLeft_eq (a : Byte) : bitOutLeft a = decide (128 ≤ a.toNat) := by
  have := a.isLt
  simp only [bitOutLeft, BitVec.getLsbD, Nat.testBit_eq_decide_div_mod_eq]
  congr 1
  simp only [eq_iff_iff]
  omega

@[simp] theorem addrImm_toNat (nnn : Addr12) : (addrImm nnn).toNat = nnn.toNat := by
  have := nnn.isLt
  simp only [addrImm, BitVec.toNat_setWidth]
  omega

theorem State.jumpTargetV0_toNat (s : State) (nnn : Addr12) :
    (s.jumpTargetV0 nnn).toNat = (nnn.toNat + (s.reg 0#4).toNat) % 4096 := by
  simp only [State.jumpTargetV0, BitVec.toNat_ofNat]
  omega

theorem State.indexSum_toNat (s : State) (x : Reg) :
    (s.indexSum x).toNat = (s.i.toNat + (s.reg x).toNat) % 4096 := by
  simp only [State.indexSum, BitVec.toNat_ofNat]
  omega

theorem State.glyphAddr_toNat (s : State) (x : Reg) : (s.glyphAddr x).toNat = 5 * (s.reg x).toNat := by
  have := (s.reg x).isLt
  simp only [State.glyphAddr, BitVec.toNat_ofNat]
  omega

theorem countDown_toNat (t : Byte) : (countDown t).toNat = t.toNat - 1 := by
  have := t.isLt
  unfold countDown
  split
  · rw [BitVec.toNat_sub]
    simp only [BitVec.toNat_ofNat]
    omega
  · omega

@[simp] theorem State.effAddr_eq (s : State) (k : Nat) : s.effAddr k = s.i.toNat + k := rfl

@[simp] theorem length_bcdDigits (a : Byte) : (bcdDigits a).length = 3 := rfl

@[simp] theorem State.length_regBlock (s : State) (x : Reg) : (s.regBlock x).length = x.toNat + 1 := by
  simp [State.regBlock]

@[simp] theorem State.getElem_regBlock (s : State) (x : Reg) (k : Nat) (hk : k < (s.regBlock x).length) :
    (s.regBlock x)[k] = s.reg (BitVec.ofNat 4 k) := by
  simp [State.regBlock]

theorem State.fetchWord_toNat (s : State) : s.fetchWord.toNat =
    (Memory.read s.mem s.pc.toNat).toNat * 256 + (Memory.read s.mem (s.pc.toNat + 1)).toNat := by
  rw [State.fetchWord, wordOfBytes, BitVec.toNat_append,
    ← Nat.shiftLeft_add_eq_or_of_lt (Memory.read s.mem (s.pc.toNat + 1)).isLt, Nat.shiftLeft_eq]

end Sys2Proof.Machine
end

