-- ==== Sys2Proof/Laws/Step.lean ====
section
/-! SUPPORT. What a step can do, said once: the event decides, and a cycle is enabled or does nothing (40_execution_cycle.md
R120, R121). -/

namespace Sys2Proof.Machine

/-! ### Answers -/

theorem next_inj {s t : State} : ((.next s : Result) = .next t) ↔ s = t :=
  ⟨fun h => by injection h, fun h => by rw [h]⟩

/-! ### Calls and returns -/

/-- Everything a call can do (R144). -/
theorem exec_call_cases {s t : State} {nnn : Addr12} (h : exec (.call nnn) s = .next t) :
    (∃ h : s.sp.val < 16, t = State.setPc
      { s with stack := s.stack.set s.sp.val s.pc h, sp := ⟨s.sp.val + 1, by omega⟩ } (addrImm nnn)) ∨
    (s.sp = 16 ∧ t = s.raise .stackOverflow s.pc) := by
  rcases s.push_cases s.pc with ⟨h₁, h₂⟩ | ⟨h₁, h₂⟩
  · simp only [exec, execCall, h₂, next_inj] at h
    exact .inl ⟨h₁, h.symm⟩
  · simp only [exec, execCall, h₂, next_inj] at h
    exact .inr ⟨h₁, h.symm⟩

/-- Everything a return can do (R142). -/
theorem exec_ret_cases {s t : State} (h : exec .ret s = .next t) :
    (∃ h : s.sp.val - 1 < 16, s.sp ≠ 0 ∧
      t = State.setPc { s with sp := ⟨s.sp.val - 1, by omega⟩ } s.stack[s.sp.val - 1]) ∨
    (s.sp = 0 ∧ t = s.raise .returnWithEmptyStack 0#16) := by
  rcases s.pop_cases with ⟨h₁, h₂, h₃⟩ | ⟨h₁, -⟩
  · simp only [exec, execRet, if_neg h₂, h₃, next_inj] at h
    exact .inl ⟨h₁, h₂, h.symm⟩
  · simp only [exec, execRet, if_pos h₁, next_inj] at h
    exact .inr ⟨h₁, h.symm⟩

/-! ### Steps -/

/-- The step of a listed or drawn event. -/
theorem step_of_event {s : State} {e : Event} (h : s.nextEvent = e) : step s = handle e s.takeEvent := by
  rw [step, h]

/-- The next event when one is listed. -/
theorem State.nextEvent_cons {s : State} {e : Event} {es : List Event} (h : s.pending = e :: es) : s.nextEvent = e := by
  simp [State.nextEvent, h]

/-- Everything a cycle event can do: nothing where none is enabled, else fetch, advance, and either the decoded
instruction or UnsupportedOpcode. -/
theorem handle_cycle_cases (s : State) (c : CycleInputs) :
    (¬ s.CycleEnabled ∧ handle (.cycle c) s = .next s) ∨
    (s.CycleEnabled ∧ ∃ i, decodeWord s.fetchWord = .ok i ∧ handle (.cycle c) s = exec i (s.latch c).advancePc) ∨
    (s.CycleEnabled ∧ ∃ e, decodeWord s.fetchWord = .error e ∧
      handle (.cycle c) s = .next ((s.latch c).advancePc.raise .unsupportedOpcode s.fetchWord)) := by
  by_cases h : s.CycleEnabled
  · cases hd : decodeWord s.fetchWord with
    | ok i => exact .inr (.inl ⟨h, i, rfl, by simp [handle, h, cycle, hd]⟩)
    | error e => exact .inr (.inr ⟨h, e, rfl, by simp [handle, h, cycle, hd]⟩)
  · exact .inl ⟨h, by simp [handle, h]⟩

/-- The tick where it is enabled. -/
theorem State.tick_running {s : State} (h : s.run = .running) :
    s.tick = (s.setDt (countDown s.dt)).setSt (countDown s.st) := by
  simp [State.tick, h]

/-- No event but a reset changes a halted machine (R261). -/
theorem handle_halted {s : State} (h : s.run = .halted) (e : Event) (he : ∀ rom, e ≠ .reset rom) :
    handle e s = .next s := by
  cases e with
  | cycle c => simp [handle, State.CycleEnabled, h]
  | tick => simp [handle, State.tick, h]
  | key k => simp [handle, State.keyEvent, h]
  | stop => simp [handle, State.stopEvent, h]
  | reset rom => exact absurd rfl (he rom)

/-- The bytes at PC and the word fetched decode alike (R63). -/
theorem decode_bytes_at_pc (s : State) :
    decode [Memory.read s.mem s.pc.toNat, Memory.read s.mem (s.pc.toNat + 1)] =
      match decodeWord s.fetchWord with
      | .ok i => .ok (i, [])
      | .error e => .error (.illegal e) := rfl

/-- Everything a step can do (R120): nothing but taking an event, an instruction, UnsupportedOpcode, a tick, a key event
that ends a wait, a stop, or a reset. -/
theorem step_cases {s t : State} (h : step s = .next t) :
    t = s.takeEvent ∨
    (∃ c i, s.nextEvent = .cycle c ∧ s.CycleEnabled ∧ decodeWord s.fetchWord = .ok i ∧
      exec i (s.takeEvent.latch c).advancePc = .next t) ∨
    (∃ c e, s.nextEvent = .cycle c ∧ s.CycleEnabled ∧ decodeWord s.fetchWord = .error e ∧
      t = (s.takeEvent.latch c).advancePc.raise .unsupportedOpcode s.fetchWord) ∨
    (s.nextEvent = .tick ∧ s.run = .running ∧ t = (s.takeEvent.setDt (countDown s.dt)).setSt (countDown s.st)) ∨
    (∃ k r, s.nextEvent = .key k ∧ s.run = .running ∧ s.wait = .waitKey r ∧
      t = (s.takeEvent.setReg r (k.setWidth 8)).setWait .none) ∨
    (s.nextEvent = .stop ∧ s.run = .running ∧ t = s.takeEvent.raise .stop 0#16) ∨
    (∃ rom, s.nextEvent = .reset rom ∧ t = s.takeEvent.boot rom) := by
  have hf : s.takeEvent.fetchWord = s.fetchWord := by simp [State.fetchWord]
  have hc : s.takeEvent.CycleEnabled ↔ s.CycleEnabled := by simp [State.CycleEnabled]
  cases he : s.nextEvent with
  | cycle c =>
    rw [step_of_event he] at h
    rcases handle_cycle_cases s.takeEvent c with ⟨-, h'⟩ | ⟨hen, i, hi, h'⟩ | ⟨hen, e, hd, h'⟩
    · rw [h', next_inj] at h
      exact .inl h.symm
    · rw [h'] at h
      exact .inr (.inl ⟨c, i, rfl, hc.1 hen, hf ▸ hi, h⟩)
    · rw [h', next_inj] at h
      exact .inr (.inr (.inl ⟨c, e, rfl, hc.1 hen, hf ▸ hd, by rw [← h, hf]⟩))
  | tick =>
    rw [step_of_event he, handle, next_inj, State.tick] at h
    split at h
    · rename_i hr
      exact .inr (.inr (.inr (.inl ⟨rfl, by simpa using hr, by simpa using h.symm⟩)))
    · exact .inl h.symm
  | key k =>
    rw [step_of_event he, handle, next_inj, State.keyEvent] at h
    split at h
    · rename_i r hr hw
      exact .inr (.inr (.inr (.inr (.inl ⟨k, r, rfl, by simpa using hr, by simpa using hw, h.symm⟩))))
    · exact .inl h.symm
    · exact .inl h.symm
  | stop =>
    rw [step_of_event he, handle, next_inj, State.stopEvent] at h
    split at h
    · rename_i hr
      exact .inr (.inr (.inr (.inr (.inr (.inl ⟨rfl, by simpa using hr, h.symm⟩)))))
    · exact .inl h.symm
  | reset rom =>
    rw [step_of_event he, handle, next_inj] at h
    exact .inr (.inr (.inr (.inr (.inr (.inr ⟨rom, rfl, h.symm⟩)))))

end Sys2Proof.Machine
end

