-- ==== Sys2Proof/Tests/Slice0.lean ====
section
/-! SUPPORT. Tests of the model: ill-formed terms, words written out from the opcode map R95, one step each from the
vectors of spec/95_test_vectors.md (named in the comments: F, CT, A, M, DR, K and E), and for every statement with
hypotheses a state and operands that meet them. -/

namespace Sys2Proof.Tests

open Sys2Proof Sys2Proof.Machine

/-! ### Helpers -/

/-- `V[x] <- b` for each pair. -/
def regs (rs : List (Reg × Byte)) (s : State) : State := rs.foldl (fun s r => s.setReg r.1 r.2) s

/-- Bytes placed in memory from address `a`. -/
def bytes (a : Nat) (bs : List Byte) (s : State) : State := s.setMem (Memory.writeBytes s.mem a bs)

/-- The framebuffer with these pixels lit, as (row, column). -/
def lit (ps : List (Fin 32 × Fin 64)) : Framebuffer := ps.foldl (fun fb p => fb.toggle p.1 p.2) Framebuffer.clear

/-- The screen with these pixels lit. -/
def screen (ps : List (Fin 32 × Fin 64)) (s : State) : State := { s with fb := lit ps }

/-- Each of these pixels is as given. -/
def shows (t : State) (ps : List (Fin 32 × Fin 64)) (b : Bool) : Bool := ps.all fun p => t.fb.pixel p.1 p.2 == b

/-- `p` holds after the step that fetches the word `w`. -/
def after (w : Nat) (s : State) (p : State → Bool) : Bool :=
  match step (s.withFetchWord 16 w) with
  | .next t => p t
  | .fault _ => false
  | .refused _ => false

/-- `p` holds after the events `es`, one step each. -/
def afterEvents (es : List Event) (s : State) (p : State → Bool) : Bool :=
  let rec run (n : Nat) (s : State) : Bool :=
    match n with
    | 0 => p s
    | n + 1 => match step s with
      | .next t => run n t
      | .fault _ => false
      | .refused _ => false
  run es.length { s with pending := es }

/-- A cycle with no key down and a draw of 0. -/
def plainCycle : Event := .cycle { keyDown := 0#16, rnd := 0#8 }

/-- Keys held and byte drawn for the next cycle. -/
def inputs (keys : BitVec 16) (draw : Byte) (s : State) : State := s.latch { keyDown := keys, rnd := draw }

/-- Halted with this cause and INFO, PC here. -/
def haltedWith (c : Cause) (info pc : Word) (t : State) : Bool :=
  t.run == .halted && t.cause == c && t.info == info && t.pc == pc

/-! ### WellFormed: each check refuses an ill-formed term (R96) -/

theorem test_sys_0E0_illFormed : ¬ Instr.WellFormed (.sys 0x0E0) := by decide
theorem test_sys_0EE_illFormed : ¬ Instr.WellFormed (.sys 0x0EE) := by decide
theorem test_sys_others_wellFormed :
    Instr.WellFormed (.sys 0x000) ∧ Instr.WellFormed (.sys 0x0E1) ∧ Instr.WellFormed (.sys 0x1E0) := by decide

/-! ### Decoding: the words of R95, bit by bit -/

theorem test_decode_class0 :
    decodeWord 0b0000000011100000 = .ok .cls ∧ decodeWord 0b0000000011101110 = .ok .ret ∧
    decodeWord 0b0000000100100011 = .ok (.sys 0b000100100011) ∧
    decodeWord 0b0000000111100000 = .ok (.sys 0b000111100000) := by decide

theorem test_decode_addresses :
    decodeWord 0b0001101010111100 = .ok (.jp 0b101010111100) ∧
    decodeWord 0b0010101010111100 = .ok (.call 0b101010111100) ∧
    decodeWord 0b1010001100000001 = .ok (.ldI 0b001100000001) ∧
    decodeWord 0b1011111111111110 = .ok (.jpV0 0b111111111110) := by decide

theorem test_decode_immediates :
    decodeWord 0b0011101000000101 = .ok (.seVxKk 0b1010 0b00000101) ∧
    decodeWord 0b0100101000000101 = .ok (.sneVxKk 0b1010 0b00000101) ∧
    decodeWord 0b0110111110101011 = .ok (.ldVxKk 0b1111 0b10101011) ∧
    decodeWord 0b0111000111111111 = .ok (.addVxKk 0b0001 0b11111111) ∧
    decodeWord 0b1100001100001111 = .ok (.rnd 0b0011 0b00001111) := by decide

theorem test_decode_two_registers :
    decodeWord 0b0101000100100000 = .ok (.seVxVy 0b0001 0b0010) ∧
    decodeWord 0b1001000100100000 = .ok (.sneVxVy 0b0001 0b0010) ∧
    decodeWord 0b1000101011110000 = .ok (.ldVxVy 0b1010 0b1111) ∧
    decodeWord 0b1000000100100001 = .ok (.or 0b0001 0b0010) ∧
    decodeWord 0b1000000100100010 = .ok (.and 0b0001 0b0010) ∧
    decodeWord 0b1000000100100011 = .ok (.xor 0b0001 0b0010) ∧
    decodeWord 0b1000000100100100 = .ok (.addVxVy 0b0001 0b0010) ∧
    decodeWord 0b1000000100100101 = .ok (.sub 0b0001 0b0010) ∧
    decodeWord 0b1000000100100110 = .ok (.shr 0b0001 0b0010) ∧
    decodeWord 0b1000000100100111 = .ok (.subn 0b0001 0b0010) ∧
    decodeWord 0b1000000100101110 = .ok (.shl 0b0001 0b0010) ∧
    decodeWord 0b1101010110100111 = .ok (.drw 0b0101 0b1010 0b0111) := by decide

theorem test_decode_classE_classF :
    decodeWord 0b1110001110011110 = .ok (.skp 0b0011) ∧ decodeWord 0b1110001110100001 = .ok (.sknp 0b0011) ∧
    decodeWord 0b1111010100000111 = .ok (.ldVxDt 0b0101) ∧ decodeWord 0b1111010100001010 = .ok (.ldVxK 0b0101) ∧
    decodeWord 0b1111010100010101 = .ok (.ldDtVx 0b0101) ∧ decodeWord 0b1111010100011000 = .ok (.ldStVx 0b0101) ∧
    decodeWord 0b1111010100011110 = .ok (.addIVx 0b0101) ∧ decodeWord 0b1111010100101001 = .ok (.ldFVx 0b0101) ∧
    decodeWord 0b1111010100110011 = .ok (.ldBVx 0b0101) ∧ decodeWord 0b1111010101010101 = .ok (.ldMiVx 0b0101) ∧
    decodeWord 0b1111010101100101 = .ok (.ldVxMi 0b0101) := by decide

/-- The Illegal words listed in section 2.1 of the vectors (R101). -/
theorem test_decode_illegal :
    decodeWord 0x5121 = .error .class5 ∧ decodeWord 0x512F = .error .class5 ∧ decodeWord 0x9AB1 = .error .class9 ∧
    decodeWord 0x8128 = .error .class8 ∧ decodeWord 0x8129 = .error .class8 ∧ decodeWord 0x812F = .error .class8 ∧
    decodeWord 0xE000 = .error .classE ∧ decodeWord 0xE19F = .error .classE ∧ decodeWord 0xE1A0 = .error .classE ∧
    decodeWord 0xF000 = .error .classF ∧ decodeWord 0xF030 = .error .classF ∧ decodeWord 0xF075 = .error .classF ∧
    decodeWord 0xF085 = .error .classF ∧ decodeWord 0xF1FF = .error .classF := by decide

/-- R90: the byte at the lower address is the high byte; the rest of the list is kept, and one byte is too few. -/
theorem test_decode_bytes :
    decode [0x12#8, 0x06#8, 0xFF#8] = .ok (.jp 0x206, [0xFF#8]) ∧ decode [0x12#8] = .error .truncated ∧
    decode [0x51#8, 0x21#8] = .error (.illegal .class5) := by decide

/-- The numbering of opcode_table.json: bit 0 is the least significant bit of the word. -/
theorem test_decodeTableWord :
    decodeTableWord 16 0x8126 = some (.shr 1 2) ∧ decodeTableWord 16 0x5121 = none := by decide

/-! ### Fetch, PC and Illegal words (section 2.1) -/

/-- F1: the fetch wraps within memory, PC does not. -/
theorem test_F1_fetch_wraps :
    afterEvents [plainCycle] ((bytes 0xFFF [0x60] State.reset).setPc 0x0FFF)
      (fun t => t.reg 0 == 0xF0 && t.pc == 0x1001) = true := by decide

/-- F2: PC 0x1200 fetches the bytes at 0x200. -/
theorem test_F2_fetch_above_memory :
    afterEvents [plainCycle] ((bytes 0x200 [0x61, 0x07] State.reset).setPc 0x1200)
      (fun t => t.reg 1 == 0x07 && t.pc == 0x1202) = true := by decide

/-- F3, F4: PC wraps at 65536, in a skip and in the fetch step. -/
theorem test_F3_F4_pc_wraps :
    after 0x3000 (State.reset.setPc 0xFFFE) (fun t => t.pc == 0x0002) = true ∧
    after 0x3001 (State.reset.setPc 0xFFFE) (fun t => t.pc == 0x0000) = true := by decide

/-- F5: a stop at the boundary; nothing is fetched. -/
theorem test_F5_stop :
    afterEvents [.stop] State.reset (haltedWith .stop 0 0x0200) = true := by decide

/-- 0x8128 and 0xE19F of the Illegal list: UnsupportedOpcode with the word, PC the post-fetch PC. -/
theorem test_illegal_halts :
    after 0x8128 State.reset (haltedWith .unsupportedOpcode 0x8128 0x0202) = true ∧
    after 0xE19F State.reset (haltedWith .unsupportedOpcode 0xE19F 0x0202) = true := by decide

/-- SYS 0x0123, whichever words `SYS_NOP_SET` holds: PC moves past it, or the halt with INFO the word. -/
theorem test_sys :
    ∃ s, step (State.reset.withFetchWord 16 0x0123) =
        .next (if Config.sysNop 0x123 then s else s.raise .unsupportedOpcode 0x0123) ∧ s.pc = 0x0202 ∧ s.run = .running :=
  ⟨((State.reset.withFetchWord 16 0x0123).takeEvent.latch State.reset.inputs).advancePc, rfl, by decide, rfl⟩

/-! ### Control transfer (section 2.2) -/

theorem test_CT1_CT2_jp :
    after 0x1ABC State.reset (fun t => t.pc == 0x0ABC) = true ∧
    after 0x1201 State.reset (fun t => t.pc == 0x0201) = true := by decide

/-- CT3: the pushed PC is not reduced modulo 4096. -/
theorem test_CT3_call :
    after 0x2ABC ({ State.reset with sp := 3 }.setPc 0x0FFE)
      (fun t => t.stack[3] == 0x1000 && t.sp == 4 && t.pc == 0x0ABC) = true := by decide

theorem test_CT4_call_full :
    after 0x2ABC ({ State.reset with sp := 16 }.setPc 0x0300)
      (fun t => haltedWith .stackOverflow 0x0302 0x0302 t && t.sp == 16 && t.stack == State.reset.stack) = true := by
  decide

theorem test_CT5_ret_empty :
    after 0x00EE (State.reset.setPc 0x0300)
      (fun t => haltedWith .returnWithEmptyStack 0 0x0302 t && t.sp == 0) = true := by decide

/-- CT6: all 16 bits are popped, and the entry keeps its contents. -/
theorem test_CT6_ret :
    after 0x00EE ({ State.reset with sp := 2, stack := (State.reset.stack.set 0 0x0206).set 1 0x1000 }.setPc 0x0300)
      (fun t => t.sp == 1 && t.pc == 0x1000 && t.stack[1] == 0x1000) = true := by decide

theorem test_CT7_CT8_jpV0_wraps :
    after 0xBFFF (regs [(0, 0xFF)] State.reset) (fun t => t.pc == 0x00FE) = true ∧
    after 0xBFFE (regs [(0, 0x04)] State.reset) (fun t => t.pc == 0x0002) = true := by decide

theorem test_CT11_CT12_seVxKk :
    after 0x3A05 (regs [(0xA, 0x05)] State.reset) (fun t => t.pc == 0x0204) = true ∧
    after 0x3A05 (regs [(0xA, 0x06)] State.reset) (fun t => t.pc == 0x0202) = true := by decide

theorem test_CT13_CT14_sneVxKk :
    after 0x4A05 (regs [(0xA, 0x05)] State.reset) (fun t => t.pc == 0x0202) = true ∧
    after 0x4A05 (regs [(0xA, 0x06)] State.reset) (fun t => t.pc == 0x0204) = true := by decide

theorem test_CT15_CT16_seVxVy :
    after 0x5120 (regs [(1, 0x7F), (2, 0x7F)] State.reset) (fun t => t.pc == 0x0204) = true ∧
    after 0x5120 (regs [(1, 1), (2, 2)] State.reset) (fun t => t.pc == 0x0202) = true := by decide

theorem test_CT18_CT19_sneVxVy :
    after 0x9120 (regs [(1, 1), (2, 2)] State.reset) (fun t => t.pc == 0x0204) = true ∧
    after 0x9120 (regs [(1, 2), (2, 2)] State.reset) (fun t => t.pc == 0x0202) = true := by decide

/-! ### ALU (section 2.3) -/

theorem test_A1_ldVxKk : after 0x6FAB State.reset (fun t => t.reg VF == 0xAB && t.pc == 0x0202) = true := by decide

theorem test_A4_A5_addVxKk :
    after 0x7105 (regs [(1, 0xFE)] State.reset) (fun t => t.reg 1 == 0x03 && t.reg VF == 1) = true ∧
    after 0x7100 (regs [(1, 0x33), (VF, 1)] State.reset) (fun t => t.reg 1 == 0x33 && t.reg VF == 0) = true := by decide

/-- A9, A10: the carry stands, the sum is lost. -/
theorem test_A9_A10_addVxKk_VF :
    after 0x7F01 (regs [(VF, 0xFF)] State.reset) (fun t => t.reg VF == 0x01) = true ∧
    after 0x7F01 (regs [(VF, 0x05)] State.reset) (fun t => t.reg VF == 0x00) = true := by decide

theorem test_A11_ldVxVy :
    after 0x8AF0 (regs [(VF, 1), (0xA, 9)] State.reset) (fun t => t.reg 0xA == 0x01) = true := by decide

theorem test_E1_or :
    after 0x8121 (regs [(1, 0xF0), (2, 0x0F), (VF, 1)] State.reset) (fun t => t.reg 1 == 0xFF && t.reg VF == 1) = true ∧
    after 0x8F21 (regs [(VF, 0x80), (2, 0x01)] State.reset) (fun t => t.reg VF == 0x81) = true := by decide

theorem test_E1_and :
    after 0x8122 (regs [(1, 0xF0), (2, 0x3C), (VF, 1)] State.reset) (fun t => t.reg 1 == 0x30 && t.reg VF == 1) = true := by
  decide

theorem test_E1_A13_xor :
    after 0x8123 (regs [(1, 0xF0), (2, 0x3C), (VF, 1)] State.reset) (fun t => t.reg 1 == 0xCC && t.reg VF == 1) = true ∧
    after 0x8113 (regs [(1, 0x5A)] State.reset) (fun t => t.reg 1 == 0x00) = true := by decide

theorem test_E2_addVxVy :
    after 0x8014 (regs [(0, 0xFF), (1, 0x01)] State.reset) (fun t => t.reg 0 == 0x00 && t.reg VF == 1) = true ∧
    after 0x8014 (regs [(0, 0xFF), (1, 0x00)] State.reset) (fun t => t.reg 0 == 0xFF && t.reg VF == 0) = true := by decide

/-- A18, A20: the source is VF, then the destination is VF. -/
theorem test_A18_A20_addVxVy_VF :
    after 0x81F4 (regs [(1, 0xFE), (VF, 0x03)] State.reset) (fun t => t.reg 1 == 0x01 && t.reg VF == 1) = true ∧
    after 0x8F14 (regs [(VF, 0x02), (1, 0x03)] State.reset) (fun t => t.reg VF == 0x00 && t.reg 1 == 0x03) = true := by
  decide

theorem test_A24_A25_sub :
    after 0x8125 (regs [(1, 0x00), (2, 0xFF)] State.reset) (fun t => t.reg 1 == 0x01 && t.reg VF == 0) = true ∧
    after 0x8115 (regs [(1, 0x42)] State.reset) (fun t => t.reg 1 == 0x00 && t.reg VF == 1) = true := by decide

theorem test_A26_A28_sub_VF :
    after 0x8F15 (regs [(VF, 5), (1, 3)] State.reset) (fun t => t.reg VF == 0x01) = true ∧
    after 0x81F5 (regs [(1, 5), (VF, 1)] State.reset) (fun t => t.reg 1 == 0x04 && t.reg VF == 1) = true := by decide

theorem test_A34_A37_shr :
    after 0x81F6 (regs [(1, 0xFE), (VF, 0x77)] State.reset) (fun t => t.reg 1 == 0x7F && t.reg VF == 0) = true ∧
    after 0x8126 (regs [(1, 0x80), (2, 0x03)] State.reset)
      (fun t => t.reg 1 == 0x40 && t.reg 2 == 0x03 && t.reg VF == 0) = true := by decide

/-- A38: the flag 1 is written first, the result overwrites it. -/
theorem test_A38_shr_VF : after 0x8F06 (regs [(VF, 0x05)] State.reset) (fun t => t.reg VF == 0x02) = true := by decide

theorem test_E3_A29_subn :
    after 0x8127 (regs [(1, 0x03), (2, 0x05)] State.reset) (fun t => t.reg 1 == 0x02 && t.reg VF == 1) = true ∧
    after 0x8127 (regs [(1, 0xFF), (2, 0x00)] State.reset) (fun t => t.reg 1 == 0x01 && t.reg VF == 0) = true := by decide

theorem test_A31_A32_subn_VF :
    after 0x8F17 (regs [(VF, 3), (1, 5)] State.reset) (fun t => t.reg VF == 0x01) = true ∧
    after 0x8F17 (regs [(VF, 5), (1, 3)] State.reset) (fun t => t.reg VF == 0x00) = true := by decide

theorem test_A43_A44_shl :
    after 0x810E (regs [(1, 0xFF)] State.reset) (fun t => t.reg 1 == 0xFE && t.reg VF == 1) = true ∧
    after 0x812E (regs [(1, 0x01), (2, 0xFF)] State.reset)
      (fun t => t.reg 1 == 0x02 && t.reg 2 == 0xFF && t.reg VF == 0) = true := by decide

theorem test_A45_A46_shl_VF :
    after 0x8F0E (regs [(VF, 0x81)] State.reset) (fun t => t.reg VF == 0x02) = true ∧
    after 0x8F0E (regs [(VF, 0x41)] State.reset) (fun t => t.reg VF == 0x82) = true := by decide

theorem test_A47_A50_rnd :
    after 0xC30F (inputs 0 0xA7 State.reset) (fun t => t.reg 3 == 0x07) = true ∧
    after 0xC3F0 (inputs 0 0xFF State.reset) (fun t => t.reg 3 == 0xF0) = true := by decide

/-! ### Index register and memory (section 2.4) -/

theorem test_M2_ldI : after 0xAFFF State.reset (fun t => t.i == 0x0FFF) = true := by decide

theorem test_M4_M5_addIVx :
    after 0xF31E (regs [(3, 0x01), (VF, 7)] (State.reset.setI 0x0FFF)) (fun t => t.i == 0x0000 && t.reg VF == 7) = true ∧
    after 0xF31E (regs [(3, 0x20)] (State.reset.setI 0x0FF0)) (fun t => t.i == 0x0010) = true := by decide

theorem test_M9_M13_ldFVx :
    after 0xF129 (regs [(1, 0x05)] State.reset) (fun t => t.i == 0x0019) = true ∧
    after 0xF129 (regs [(1, 0xFF)] State.reset) (fun t => t.i == 0x04FB) = true := by decide

theorem test_E12_ldBVx :
    after 0xF033 (regs [(0, 254)] (State.reset.setI 0x0300))
      (fun t => Memory.readBytes t.mem 0x300 3 == [2, 5, 4] && t.i == 0x0300) = true := by decide

/-- M15: the digits wrap into the font. -/
theorem test_M15_ldBVx_wraps :
    after 0xF033 (regs [(0, 234)] (State.reset.setI 0x0FFE))
      (fun t => Memory.readBytes t.mem 0xFFE 2 == [2, 3] && Memory.read t.mem 0 == 4 && t.i == 0x0FFE) = true := by decide

/-- M16: V3 is not stored, and the bytes beside the block are unchanged. -/
theorem test_M16_ldMiVx :
    after 0xF255 (regs [(0, 2), (1, 5), (2, 4), (3, 9)] (bytes 0x302 [0xAA, 0, 0, 0, 0xBB] (State.reset.setI 0x0303)))
      (fun t => Memory.readBytes t.mem 0x302 5 == [0xAA, 2, 5, 4, 0xBB] && t.i == 0x0303) = true := by decide

/-- M18, in part: sixteen registers from 0xFF8, the last eight wrapped to 0x000. -/
theorem test_M18_ldMiVx_wraps :
    after 0xFF55 (regs [(0, 0x10), (7, 0x17), (8, 0x18), (0xF, 0x1F)] (State.reset.setI 0x0FF8))
      (fun t => Memory.read t.mem 0xFF8 == 0x10 && Memory.read t.mem 0xFFF == 0x17 && Memory.read t.mem 0 == 0x18 &&
        Memory.read t.mem 7 == 0x1F && t.i == 0x0FF8) = true := by decide

theorem test_M19_ldVxMi :
    after 0xF265 (regs [(3, 0x99)] (bytes 0x300 [2, 5, 4, 7] (State.reset.setI 0x0300)))
      (fun t => t.reg 0 == 2 && t.reg 1 == 5 && t.reg 2 == 4 && t.reg 3 == 0x99 && t.i == 0x0300) = true := by decide

/-- M20, M21: the load wraps to the font; VF is loaded as V[15]. -/
theorem test_M20_M21_ldVxMi :
    after 0xF165 (bytes 0xFFF [0x11] (State.reset.setI 0x0FFF)) (fun t => t.reg 0 == 0x11 && t.reg 1 == 0xF0) = true ∧
    after 0xFF65 (State.reset.setI 0x0000) (fun t => t.v ==
      #v[0xF0, 0x90, 0x90, 0x90, 0xF0, 0x20, 0x60, 0x20, 0x20, 0x70, 0xF0, 0x10, 0xF0, 0x80, 0xF0, 0xF0]) = true := by
  decide

/-! ### Display (section 2.5) -/

/-- DR15: VF is left alone, and one Present is emitted. -/
theorem test_DR15_cls :
    after 0x00E0 (regs [(VF, 1)] (screen [(0, 0), (31, 63)] State.reset))
      (fun t => shows t [(0, 0), (31, 63)] false && t.reg VF == 1 && t.presents.length == 1) = true := by decide

/-- DR3: row and column wrap. -/
theorem test_DR3_drw_wraps :
    after 0xD012 (regs [(0, 62), (1, 31)] (bytes 0x300 [0xC0, 0x81] (State.reset.setI 0x0300)))
      (fun t => shows t [(31, 62), (31, 63), (0, 62), (0, 5)] true && shows t [(31, 61), (31, 0), (0, 63), (1, 62)] false &&
        t.reg VF == 0 && t.presents.length == 1) = true := by decide

/-- DR6: one of four toggled pixels collides. -/
theorem test_DR6_drw_collides :
    after 0xD011 (bytes 0x300 [0xF0] (screen [(0, 3), (0, 4)] (State.reset.setI 0x0300)))
      (fun t => shows t [(0, 0), (0, 1), (0, 2), (0, 4)] true && shows t [(0, 3), (0, 5)] false && t.reg VF == 1) =
      true := by decide

/-! ### Keypad and timers (section 2.6) -/

theorem test_K1_K5_skp :
    after 0xE39E (inputs (1 <<< 10) 0 (regs [(3, 0x0A)] (State.reset.setPc 0x220))) (fun t => t.pc == 0x224) = true ∧
    after 0xE39E (inputs (1 <<< 10) 0 (regs [(3, 0x1A)] (State.reset.setPc 0x220))) (fun t => t.pc == 0x224) = true := by
  decide

theorem test_K2_skp : after 0xE39E (regs [(3, 0x0A)] (State.reset.setPc 0x220)) (fun t => t.pc == 0x222) = true := by decide

theorem test_K4_K7_sknp :
    after 0xE3A1 (regs [(3, 0x0A)] (State.reset.setPc 0x220)) (fun t => t.pc == 0x224) = true ∧
    after 0xE3A1 (inputs 1 0 (regs [(3, 0x10)] (State.reset.setPc 0x220))) (fun t => t.pc == 0x222) = true := by decide

/-- K8: the wait begins, two ticks pass, the key ends it; no cycle in between changes anything. -/
theorem test_K8_ldVxK :
    afterEvents [plainCycle, .tick, plainCycle, .tick, .key 7]
      (bytes 0x230 [0xF5, 0x0A] { State.reset.setPc 0x0230 with dt := 3, st := 1 })
      (fun t => t.reg 5 == 0x07 && t.wait == .none && t.pc == 0x0232 && t.dt == 1 && t.st == 0) = true := by decide

/-- K10: a stop in a key wait. -/
theorem test_K10_stop_in_wait :
    afterEvents [.stop] (State.reset.setWait (.waitKey 5))
      (fun t => t.run == .halted && t.cause == .stop && t.reg 5 == 0 && t.wait == .waitKey 5) = true := by decide

theorem test_K11_ldVxDt : after 0xF107 (State.reset.setDt 4) (fun t => t.reg 1 == 4 && t.dt == 4) = true := by decide

theorem test_K12_ldDtVx : after 0xF015 (regs [(0, 5)] State.reset) (fun t => t.dt == 5) = true := by decide

theorem test_K13_ldStVx : after 0xF218 (regs [(2, 0x3C)] State.reset) (fun t => t.st == 0x3C && t.soundOn) = true := by
  decide

/-- K14, K15: both timers stop at 0. -/
theorem test_K14_K15_tick :
    afterEvents [.tick, .tick, .tick] (State.reset.setSt 2) (fun t => t.dt == 0 && t.st == 0 && !t.soundOn) = true ∧
    afterEvents [.tick] (State.reset.setDt 255) (fun t => t.dt == 254 && t.st == 0) = true := by decide

/-- K16, K17: a key event with no wait, and every event but a reset in Halted, change nothing. -/
theorem test_K16_K17_dropped :
    afterEvents [.key 3] State.reset (fun t => t == State.reset) = true ∧
    afterEvents [.tick, .key 3, .stop, plainCycle] ((State.reset.setDt 9).raise .stackOverflow 2)
      (fun t => t == (State.reset.setDt 9).raise .stackOverflow 2) = true := by decide

/-! ### Reset -/

/-- `State.reset` is what a reset with the ROM of length 0 leaves (R46, R290). -/
theorem test_reset_is_boot_of_nothing : State.reset.boot [] = State.reset := by decide

/-- R290: a reset leaves Halted and clears what was there; the ROM stands at 0x200, high byte first. -/
theorem test_boot_from_halted :
    afterEvents [.reset [0x12#8, 0x00#8]] (regs [(4, 9)] ((State.reset.setI 5).raise .stackOverflow 2))
      (fun t => t.run == .running && t.cause == .none && t.info == 0 && t.reg 4 == 0 && t.i == 0 &&
        t.fetchWord == 0x1200) = true := by decide

/-- R293, R294: the glyph of F ends the font, and the byte after it is fill. -/
theorem test_font_end :
    Memory.readBytes State.reset.mem 75 6 = [0xF0#8, 0x80#8, 0xF0#8, 0x80#8, 0x80#8, 0x00#8] := by decide

/-! ### Memory and the host's interface -/

/-- A byte equal to the reset contents is not listed, so equal memories are equal lists. -/
theorem test_memory_canonical :
    Memory.write (Memory.write [] 0x300 7) 0x1300 0 = [] ∧ Memory.write [] 0 0xF0 = [] ∧
    Memory.write (Memory.write [] 0x301 1) 0x300 2 = [(0x300, 2), (0x301, 1)] := by decide

/-- The host's machine starts at the reset vector. -/
theorem test_core_reset : Sys2Proof.core.reset = State.reset := rfl

/-! ### Witnesses: what meets the hypotheses of each statement

Each theorem names the statement of Certificates/Slice0/Obligations.lean; where a statement has several clauses, or a
range, the witnesses stand at the places where they meet. -/

/-- Whether the answer is a next state. -/
def answersNext : Result → Bool
  | .next _ => true
  | .fault _ => false
  | .refused _ => false

/-- The state of these events to come. -/
def expecting (es : List Event) (s : State) : State := { s with pending := es }

/-- Two bytes at the reset vector, and a cycle to come. -/
def aboutToRun (hi lo : Byte) : State := expecting [plainCycle] (bytes 0x200 [hi, lo] State.reset)

theorem witness_DecodeOfEncodeIsIdentity :
    Instr.WellFormed (.sys 0x0E1) ∧ Instr.WellFormed (.drw 0xF 0x0 0xF) ∧ Instr.WellFormed (.shl 0xF 0xF) := by decide

theorem witness_EncodeOfDecodeIsIdentity : decodeWord 0x8AF6 = .ok (.shr 0xA 0xF) := by decide

theorem witness_MaskAndMatchSelectTheRow_decodes : decodeWord 0x00EE = .ok .ret := by decide

theorem witness_MaskAndMatchSelectTheRow_sys :
    (0x00E1 : Word) &&& maskOf (.sys 0x123) = matchOf (.sys 0x123) ∧ (0x00E1 : Word) ≠ 0x00E0 ∧ (0x00E1 : Word) ≠ 0x00EE := by
  decide

theorem witness_MaskAndMatchSelectTheRow_fixed : (0x00E0 : Word) &&& maskOf .cls = matchOf .cls := by decide

theorem witness_StepRunsTheDecodedInstruction :
    (aboutToRun 0x61 0x05).run = .running ∧ (aboutToRun 0x61 0x05).wait = .none ∧
    (aboutToRun 0x61 0x05).nextEvent = plainCycle ∧
    decode [Memory.read (aboutToRun 0x61 0x05).mem (aboutToRun 0x61 0x05).pc.toNat,
      Memory.read (aboutToRun 0x61 0x05).mem ((aboutToRun 0x61 0x05).pc.toNat + 1)] = .ok (.ldVxKk 1 5, []) := by decide

theorem witness_IllegalWordHaltsTheEngine :
    (aboutToRun 0x51 0x21).run = .running ∧ (aboutToRun 0x51 0x21).wait = .none ∧
    (aboutToRun 0x51 0x21).nextEvent = plainCycle ∧ decodeWord (aboutToRun 0x51 0x21).fetchWord = .error .class5 := by decide

/-- Both timers at 0, both above 0, and in a key wait. -/
theorem witness_TickCountsDownToZero :
    ∀ s ∈ [State.reset, (State.reset.setDt 1).setSt 255, State.reset.setWait (.waitKey 3)],
      (expecting [.tick] s).run = .running ∧ (expecting [.tick] s).nextEvent = .tick := by decide

theorem witness_HaltedIsTerminal :
    ∀ e ∈ [plainCycle, .tick, .key 3, .stop], (expecting [e] (State.reset.raise .stop 0)).run = .halted ∧
      (expecting [e] (State.reset.raise .stop 0)).nextEvent = e := by decide

theorem witness_KeyEventEndsTheWait :
    ∀ w ∈ [Wait.waitKey 0xF, Wait.none], (expecting [.key 0xF] (State.reset.setWait w)).run = .running ∧
      (expecting [.key 0xF] (State.reset.setWait w)).nextEvent = .key 0xF ∧
      (expecting [.key 0xF] (State.reset.setWait w)).wait = w := by decide

theorem witness_KeyWaitFetchesNothing :
    (expecting [plainCycle] (State.reset.setWait (.waitKey 5))).run = .running ∧
    (expecting [plainCycle] (State.reset.setWait (.waitKey 5))).wait = .waitKey 5 ∧
    (expecting [plainCycle] (State.reset.setWait (.waitKey 5))).nextEvent = plainCycle := by decide

theorem witness_StopHaltsTheEngine :
    ∀ w ∈ [Wait.waitKey 5, Wait.none], (expecting [.stop] (State.reset.setWait w)).run = .running ∧
      (expecting [.stop] (State.reset.setWait w)).nextEvent = .stop := by decide

/-- A ROM of `n` bytes, all the same. -/
def rom (n : Nat) : List Byte := List.replicate n 0xAA#8

theorem rom_length (n : Nat) : (rom n).length = n := List.length_replicate

/-- The largest ROM that fits, from its first two bytes on. -/
theorem witness_ResetVectorFetchesTheRom :
    (expecting [.reset (0x12 :: 0x00 :: rom 3582)] State.reset).nextEvent = .reset (0x12 :: 0x00 :: rom 3582) ∧
    (0x12#8 :: 0x00#8 :: rom 3582).length ≤ 3584 :=
  ⟨rfl, by rw [List.length_cons, List.length_cons, rom_length]⟩

/-- A ROM at each side of the limit, and the empty one. -/
theorem witness_ResetCreatesTheMachineAgain :
    (∀ rom, (expecting [.reset rom] (State.reset.raise .stop 0)).nextEvent = .reset rom) ∧
    (rom 0).length ≤ 3584 ∧ (rom 3584).length ≤ 3584 ∧ ¬ (rom 3585).length ≤ 3584 := by
  refine ⟨fun _ => rfl, ?_, ?_, ?_⟩ <;> rw [rom_length] <;> omega

theorem witness_RomTooLargeOnlyAtBoot_reset :
    (expecting [.reset (rom 3585)] State.reset).nextEvent = .reset (rom 3585) ∧ (rom 3585).length > 3584 :=
  ⟨rfl, by rw [rom_length]; omega⟩

theorem witness_RomTooLargeOnlyAtBoot_fits :
    (expecting [.reset (rom 3584)] State.reset).nextEvent = .reset (rom 3584) ∧ (rom 3584).length ≤ 3584 :=
  ⟨rfl, by rw [rom_length]⟩

theorem witness_RomTooLargeOnlyAtBoot_exec :
    exec .cls State.reset = .next (State.reset.present Framebuffer.clear) ∧ State.reset.cause ≠ .romTooLarge :=
  ⟨rfl, by decide⟩

theorem witness_DrawingTwiceRestoresTheScreen : (0x0 : Reg) ≠ VF ∧ (0xE : Reg) ≠ VF := by decide

/-- One entry held, and all sixteen. -/
theorem witness_RetPopsIntoPc :
    ({ State.reset with sp := 1 } : State).sp ≠ 0 ∧ ({ State.reset with sp := 16 } : State).sp ≠ 0 := by decide

theorem witness_OnlyRetRaisesReturnWithEmptyStack :
    State.reset.sp = 0 ∧ ∃ t, step (aboutToRun 0x00 0xEE) = .next t ∧
      (aboutToRun 0x00 0xEE).cause ≠ .returnWithEmptyStack ∧ t.cause = .returnWithEmptyStack :=
  ⟨rfl, _, rfl, by decide, rfl⟩

/-- The empty stack, and one free entry. -/
theorem witness_CallPushesThePostFetchPc :
    State.reset.sp ≠ 16 ∧ ({ State.reset with sp := 15 } : State).sp ≠ 16 := by decide

theorem witness_OnlyCallRaisesStackOverflow :
    ({ State.reset with sp := 16 } : State).sp = 16 ∧ ∃ t, step { aboutToRun 0x22 0x00 with sp := 16 } = .next t ∧
      (aboutToRun 0x22 0x00).cause ≠ .stackOverflow ∧ t.cause = .stackOverflow :=
  ⟨rfl, _, rfl, by decide, rfl⟩

theorem callMany_answers : answersNext (callMany (List.replicate 16 0x200) State.reset) = true := by decide

/-- No call, sixteen calls, and the state after sixteen. -/
theorem witness_SixteenCallsAndNoMore :
    State.reset.sp = 0 ∧ ([] : List Addr12).length ≤ 16 ∧ (List.replicate 16 (0x200 : Addr12)).length = 16 ∧
    ∃ t, callMany (List.replicate 16 0x200) State.reset = .next t := by
  refine ⟨rfl, by decide, rfl, ?_⟩
  cases h : callMany (List.replicate 16 0x200) State.reset with
  | next t => exact ⟨t, rfl⟩
  | fault f => exact nomatch f
  | refused r => exact absurd (h ▸ callMany_answers : answersNext (.refused r) = true) nofun

theorem witness_ReturnUndoesCall :
    ({ State.reset with sp := 15 } : State).sp ≠ 16 ∧ ∀ t : State, SameStack t { t with pc := 0x0300, i := 7 } :=
  ⟨by decide, fun _ => ⟨rfl, rfl⟩⟩

/-- The reset memory, and one with bytes written across the top of memory. -/
theorem witness_memory_is_canonical :
    State.reset.MemCanonical ∧ (bytes 0xFFF [0x11, 0x22] State.reset).MemCanonical := ⟨rfl, rfl⟩

theorem witness_StoreThenLoadRestoresTheRegisters :
    ∃ t, exec (.ldMiVx 2) State.reset = .next t ∧ (t.setReg 0 9).mem = t.mem ∧ (t.setReg 0 9).i = State.reset.i :=
  ⟨_, rfl, rfl, rfl⟩

/-- The high byte and the low byte of the next fetch, from the first and the last byte of a store that wraps: I is 0xFFF
and PC is 0x0FFF, then 0xFFFF (the low byte is at 0x000). -/
theorem witness_StoredBytesAreFetched :
    (State.reset.setI 0x0FFF).MemCanonical ∧
    (∃ t, exec (.ldMiVx 1) (State.reset.setI 0x0FFF) = .next t ∧ (t.setPc 0x0FFF).mem = t.mem ∧
      (t.setPc 0x0FFF).pc.toNat % 4096 = ((State.reset.setI 0x0FFF).i.toNat + (0x0 : Reg).toNat) % 4096 ∧
      ((t.setPc 0xFFFF).pc.toNat + 1) % 4096 = ((State.reset.setI 0x0FFF).i.toNat + (0x1 : Reg).toNat) % 4096) ∧
    (∃ t, exec (.ldBVx 1) (State.reset.setI 0x0FFF) = .next t ∧ (t.setPc 0x0FFF).mem = t.mem ∧
      (t.setPc 0x0FFF).pc.toNat % 4096 = ((State.reset.setI 0x0FFF).i.toNat + 0) % 4096 ∧
      ((t.setPc 0x0000).pc.toNat + 1) % 4096 = ((State.reset.setI 0x0FFF).i.toNat + 2) % 4096) :=
  ⟨rfl, ⟨_, rfl, rfl, by decide, by decide⟩, ⟨_, rfl, rfl, by decide, by decide⟩⟩

theorem witness_VfIsWrittenAsTheTableSays_flag :
    (∃ t, exec (.addVxVy 0xE 0xF) State.reset = .next t) ∧ destReg (.addVxVy 0xE 0xF) ≠ some VF ∧
    flagOf State.reset (.addVxVy 0xE 0xF) = some false := ⟨⟨_, rfl⟩, by decide, by decide⟩

theorem witness_VfIsWrittenAsTheTableSays_noFlag :
    (∃ t, exec (.ldVxMi 0xE) State.reset = .next t) ∧ destReg (.ldVxMi 0xE) ≠ some VF ∧
    flagOf State.reset (.ldVxMi 0xE) = none ∧ Instr.ldVxMi 0xE ≠ .ldVxMi VF := ⟨⟨_, rfl⟩, by decide, by decide, by decide⟩

theorem witness_OnlyTwoInstructionsTouchTheScreen :
    (∃ t, exec (.jp 0x200) State.reset = .next t) ∧ Instr.jp 0x200 ≠ .cls ∧ ∀ x y n, Instr.jp 0x200 ≠ .drw x y n :=
  ⟨⟨_, rfl⟩, nofun, nofun⟩

theorem witness_OnlyCallAndRetTouchTheStack :
    (∃ t, exec (.jp 0x200) State.reset = .next t) ∧ Instr.jp 0x200 ≠ .ret ∧ ∀ nnn, Instr.jp 0x200 ≠ .call nnn :=
  ⟨⟨_, rfl⟩, nofun, nofun⟩

theorem witness_OnlyTwoInstructionsStore :
    (∃ t, exec (.ldVxMi 0xF) State.reset = .next t) ∧ (∀ x, Instr.ldVxMi 0xF ≠ .ldBVx x) ∧
    ∀ x, Instr.ldVxMi 0xF ≠ .ldMiVx x := ⟨⟨_, rfl⟩, nofun, nofun⟩

theorem witness_OnlyThreeInstructionsWriteI :
    (∃ t, exec (.ldMiVx 0xF) State.reset = .next t) ∧ (∀ nnn, Instr.ldMiVx 0xF ≠ .ldI nnn) ∧
    (∀ x, Instr.ldMiVx 0xF ≠ .addIVx x) ∧ ∀ x, Instr.ldMiVx 0xF ≠ .ldFVx x := ⟨⟨_, rfl⟩, nofun, nofun, nofun⟩

theorem witness_OtherInstructionsKeepThePostFetchPc :
    (∃ t, exec (.ldVxK 0xF) State.reset = .next t) ∧ setsPc (.ldVxK 0xF) = false := ⟨⟨_, rfl⟩, rfl⟩

/-- A step in which DT goes up, and one in which ST does. -/
theorem witness_TimersRiseOnlyByLoading :
    (∃ t, step (regs [(1, 5)] (aboutToRun 0xF1 0x15)) = .next t ∧ (0 : Byte).toNat < t.dt.toNat) ∧
    (∃ t, step (regs [(1, 5)] (aboutToRun 0xF1 0x18)) = .next t ∧ (0 : Byte).toNat < t.st.toNat) ∧
    ∀ rom, (regs [(1, 5)] (aboutToRun 0xF1 0x15)).nextEvent ≠ .reset rom :=
  ⟨⟨_, rfl, by decide⟩, ⟨_, rfl, by decide⟩, nofun⟩

theorem witness_FatalInstructionsWriteNothing :
    ∃ t, exec .ret State.reset = .next t ∧ State.reset.run = .running ∧ t.run = .halted := ⟨_, rfl, rfl, rfl⟩

theorem witness_UnreachableConditionsAreNotRaised :
    ∃ t, step (aboutToRun 0x00 0xEE) = .next t ∧ (aboutToRun 0x00 0xEE).cause ≠ .stackUnderflow ∧
      (aboutToRun 0x00 0xEE).cause ≠ .invalidRegister := ⟨_, rfl, by decide, by decide⟩

/-- A stop, an instruction that halts, and a reset that halts. -/
theorem witness_EveryStepAnswersANextState :
    (∃ t, step (expecting [.stop] State.reset) = .next t ∧ t.run = .halted) ∧
    (∃ t, step (aboutToRun 0x00 0xEE) = .next t ∧ t.run = .halted) ∧
    (expecting [.reset (rom 3585)] State.reset).run = .running :=
  ⟨⟨_, rfl, rfl⟩, ⟨_, rfl, rfl⟩, rfl⟩

theorem witness_ParkedStaysParked :
    (aboutToRun 0x12 0x00).Parked ∧ (aboutToRun 0x12 0x00).run = .running ∧ (aboutToRun 0x12 0x00).wait = .none ∧
    (aboutToRun 0x12 0x00).nextEvent = plainCycle := ⟨⟨by decide, by decide⟩, rfl, rfl, rfl⟩

/-- The invariant's parts at a running state, and a step from it. -/
theorem witness_EveryStepKeepsTheInvariant :
    (aboutToRun 0x12 0x00).Inv ∧ ∃ t, step (aboutToRun 0x12 0x00) = .next t :=
  ⟨⟨rfl, by simp [State.HaltHasCause, aboutToRun, expecting, bytes, State.setMem, State.reset],
    fun _ _ => rfl, ⟨by decide, by decide⟩, by unfold State.IndexInRange; decide, fun _ _ => rfl, rfl⟩, _, rfl⟩

end Sys2Proof.Tests
end

section
/-! PROOFS. The canonical field extraction (00_scope.md R11): a mask followed by a shift reads the same number as the
field of the decoder. -/

namespace Sys2Proof

/-- A mask that is `len` ones from bit `s` up, then a shift by `s`, reads the field of `len` bits at bit `s`. -/
theorem toNat_and_mask_ushiftRight (op mask : Word) (s len : Nat) (hmask : mask.toNat >>> s = 2 ^ len - 1) :
    ((op &&& mask) >>> s).toNat = op.toNat / 2 ^ s % 2 ^ len := by
  rw [BitVec.toNat_ushiftRight, BitVec.toNat_and, Nat.shiftRight_and_distrib, hmask, Nat.and_two_pow_sub_one_eq_mod,
    Nat.shiftRight_eq_div_pow]

/-- A mask of the `len` lowest bits needs no shift. -/
theorem toNat_and_lowMask (op mask : Word) (len : Nat) (hmask : mask.toNat = 2 ^ len - 1) :
    (op &&& mask).toNat = op.toNat % 2 ^ len := by
  rw [BitVec.toNat_and, hmask, Nat.and_two_pow_sub_one_eq_mod]

/-- Settles O5: field by field, the decoder's extraction and the mask with its shift are the same quotient and
remainder of the word. -/
theorem fieldsAreMasksAndShifts : Obligations.FieldsAreMasksAndShifts := by
  intro op
  refine ⟨?x, ?y, ?n, ?kk, ?nnn⟩
  case x => exact (opX_toNat op).trans (toNat_and_mask_ushiftRight op _ 8 4 rfl).symm
  case y => exact (opY_toNat op).trans (toNat_and_mask_ushiftRight op _ 4 4 rfl).symm
  case n => exact (opN_toNat op).trans (toNat_and_lowMask op _ 4 rfl).symm
  case kk => exact (opKK_toNat op).trans (toNat_and_lowMask op _ 8 rfl).symm
  case nnn => exact (opNNN_toNat op).trans (toNat_and_lowMask op _ 12 rfl).symm

end Sys2Proof
end

section
/-! PROOFS. What each instruction can do, said once: `Effect` lists, for a state, the updates an instruction can make to
it, `exec_answers` shows that `exec` makes one of them, and the rules over all instructions are read off its cases. -/

namespace Sys2Proof.Machine

/-- What an instruction can do to the state `s`: one constructor per shared operation for the instructions of the register
file, the jumps and the skips, and one per outcome for each other instruction. -/
inductive Effect (s : State) : Instr → State → Prop
  /-- 6xkk, 8xy0 to 8xy3, Cxkk and Fx07 (R161, R163 to R166, R172, R233): the destination is written, no flag. -/
  | setReg {i : Instr} {x : Reg} (b : Byte) (hd : destReg i = some x) (hf : flagOf s i = none) : Effect s i (s.setReg x b)
  /-- 7xkk, 8xy4, 8xy5 and 8xy7 (R126): the destination is written, then VF. -/
  | resultThenFlag {i : Instr} {x : Reg} {f : Bool} (b : Byte) (hd : destReg i = some x) (hf : flagOf s i = some f) :
      Effect s i (s.resultThenFlag x b f)
  /-- 8xy6 and 8xyE (R126): VF is written, then the destination. -/
  | flagThenResult {i : Instr} {x : Reg} {f : Bool} (b : Byte) (hd : destReg i = some x) (hf : flagOf s i = some f) :
      Effect s i (s.flagThenResult x b f)
  /-- 1nnn and Bnnn (R143, R145). -/
  | jump {i : Instr} (a : Word) (hp : setsPc i = true) (hf : flagOf s i = none) : Effect s i (s.setPc a)
  /-- 3xkk, 4xkk, 5xy0, 9xy0, Ex9E and ExA1 (R140). -/
  | skip {i : Instr} (c : Bool) (hp : setsPc i = true) (hf : flagOf s i = none) : Effect s i (s.skipIf c)
  /-- 2nnn with room on the stack (R144). -/
  | call (nnn : Addr12) (h : s.sp.val < 16) : Effect s (.call nnn) (State.setPc
      { s with stack := s.stack.set s.sp.val s.pc h, sp := ⟨s.sp.val + 1, by omega⟩ } (addrImm nnn))
  /-- 2nnn with a full stack (R252). -/
  | callFull (nnn : Addr12) (h : s.sp = 16) : Effect s (.call nnn) (s.raise .stackOverflow s.pc)
  /-- 00EE with an entry on the stack (R142). -/
  | ret (h : s.sp.val - 1 < 16) (hsp : s.sp ≠ 0) :
      Effect s .ret (State.setPc { s with sp := ⟨s.sp.val - 1, by omega⟩ } s.stack[s.sp.val - 1])
  /-- 00EE with an empty stack (R254). -/
  | retEmpty (h : s.sp = 0) : Effect s .ret (s.raise .returnWithEmptyStack 0#16)
  /-- 0nnn in `SYS_NOP_SET` (R141). -/
  | sysNop (nnn : Addr12) (h : Config.sysNop nnn = true) : Effect s (.sys nnn) s
  /-- 0nnn outside `SYS_NOP_SET` (R141, R251). -/
  | sysUnsupported (nnn : Addr12) (h : ¬ Config.sysNop nnn = true) :
      Effect s (.sys nnn) (s.raise .unsupportedOpcode (encode (.sys nnn)))
  /-- 00E0 (R211). -/
  | cls : Effect s .cls (s.present Framebuffer.clear)
  /-- Dxyn (R213): VF is the collision bit, and the blit's framebuffer is presented. -/
  | drw (x y : Reg) (n : Nibble) {f : Bool} (fb : Framebuffer) (hf : flagOf s (.drw x y n) = some f) :
      Effect s (.drw x y n) ((s.setReg VF (flagByte f)).present fb)
  /-- Annn (R191). -/
  | ldI (nnn : Addr12) : Effect s (.ldI nnn) (s.setI (addrImm nnn))
  /-- Fx1E (R192). -/
  | addIVx (x : Reg) : Effect s (.addIVx x) (s.setI (s.indexSum x))
  /-- Fx29 (R193). -/
  | ldFVx (x : Reg) : Effect s (.ldFVx x) (s.setI (s.glyphAddr x))
  /-- Fx33 (R194). -/
  | ldBVx (x : Reg) : Effect s (.ldBVx x) (s.setMem (Memory.writeBytes s.mem (s.effAddr 0) (bcdDigits (s.reg x))))
  /-- Fx55 (R195). -/
  | ldMiVx (x : Reg) : Effect s (.ldMiVx x) (s.setMem (Memory.writeBytes s.mem (s.effAddr 0) (s.regBlock x)))
  /-- Fx65 (R196). -/
  | ldVxMi (x : Reg) : Effect s (.ldVxMi x) (s.loadRegBlock x)
  /-- Fx0A, its first step (R232). -/
  | ldVxK (x : Reg) : Effect s (.ldVxK x) (s.setWait (.waitKey x))
  /-- Fx15 (R234). -/
  | ldDtVx (x : Reg) : Effect s (.ldDtVx x) (s.setDt (s.reg x))
  /-- Fx18 (R235). -/
  | ldStVx (x : Reg) : Effect s (.ldStVx x) (s.setSt (s.reg x))

/-- A call answers one of its two outcomes. -/
theorem exec_call_answers (nnn : Addr12) (s : State) :
    ∃ t, exec (.call nnn) s = .next t ∧ Effect s (.call nnn) t := by
  rcases s.push_cases s.pc with ⟨hsp, hpush⟩ | ⟨hsp, hpush⟩
  · exact ⟨_, by simp only [exec, execCall, hpush], .call nnn hsp⟩
  · exact ⟨_, by simp only [exec, execCall, hpush], .callFull nnn hsp⟩

/-- A return answers one of its two outcomes. -/
theorem exec_ret_answers (s : State) : ∃ t, exec .ret s = .next t ∧ Effect s .ret t := by
  rcases s.pop_cases with ⟨hlt, hsp, hpop⟩ | ⟨hsp, -⟩
  · exact ⟨_, by simp only [exec, execRet, if_neg hsp, hpop], .ret hlt hsp⟩
  · exact ⟨_, by simp only [exec, execRet, if_pos hsp], .retEmpty hsp⟩

/-- SYS answers one of its two outcomes. -/
theorem exec_sys_answers (nnn : Addr12) (s : State) : ∃ t, exec (.sys nnn) s = .next t ∧ Effect s (.sys nnn) t := by
  by_cases hnop : Config.sysNop nnn = true
  · exact ⟨_, by rw [exec, execSys, if_pos hnop], .sysNop nnn hnop⟩
  · exact ⟨_, by rw [exec, execSys, if_neg hnop], .sysUnsupported nnn hnop⟩

/-- Every instruction answers a next state, and makes one of the listed updates. -/
theorem exec_answers (i : Instr) (s : State) : ∃ t, exec i s = .next t ∧ Effect s i t := by
  cases i with
  | ldVxKk | ldVxVy | or | and | xor | rnd | ldVxDt => exact ⟨_, rfl, .setReg _ rfl rfl⟩
  | addVxKk | addVxVy | sub | subn => exact ⟨_, rfl, .resultThenFlag _ rfl rfl⟩
  | shr | shl => exact ⟨_, rfl, .flagThenResult _ rfl rfl⟩
  | jp | jpV0 => exact ⟨_, rfl, .jump _ rfl rfl⟩
  | seVxKk | sneVxKk | seVxVy | sneVxVy | skp | sknp => exact ⟨_, rfl, .skip _ rfl rfl⟩
  | call nnn => exact exec_call_answers nnn s
  | ret => exact exec_ret_answers s
  | sys nnn => exact exec_sys_answers nnn s
  | cls => exact ⟨_, rfl, .cls⟩
  | drw x y n => exact ⟨_, rfl, .drw x y n _ rfl⟩
  | ldI nnn => exact ⟨_, rfl, .ldI nnn⟩
  | addIVx x => exact ⟨_, rfl, .addIVx x⟩
  | ldFVx x => exact ⟨_, rfl, .ldFVx x⟩
  | ldBVx x => exact ⟨_, rfl, .ldBVx x⟩
  | ldMiVx x => exact ⟨_, rfl, .ldMiVx x⟩
  | ldVxMi x => exact ⟨_, rfl, .ldVxMi x⟩
  | ldVxK x => exact ⟨_, rfl, .ldVxK x⟩
  | ldDtVx x => exact ⟨_, rfl, .ldDtVx x⟩
  | ldStVx x => exact ⟨_, rfl, .ldStVx x⟩

/-- The inversion rule of `exec`: the state it answers is one of the listed updates. -/
theorem effect_of_exec {i : Instr} {s t : State} (h : exec i s = .next t) : Effect s i t := by
  obtain ⟨u, hu, heff⟩ := exec_answers i s
  rw [hu, next_inj] at h
  exact h ▸ heff

end Sys2Proof.Machine
end

section
/-! PROOFS. The invariant of the machine (10_state.md R47): one rule per update that touches a field it speaks of, then the
reset, the instructions and the steps. -/

namespace Sys2Proof.Machine

/-! ### One rule per update -/

/-- The invariant speaks of memory, I, WAIT, RUN, CAUSE, INFO and the display only. -/
theorem State.Inv.congr {s t : State} (hs : s.Inv) (hmem : t.mem = s.mem := by simp) (hi : t.i = s.i := by simp)
    (hwait : t.wait = s.wait := by simp) (hrun : t.run = s.run := by simp) (hcause : t.cause = s.cause := by simp)
    (hinfo : t.info = s.info := by simp) (hfb : t.fb = s.fb := by simp)
    (hpresents : t.presents = s.presents := by simp) : t.Inv := by
  simpa only [State.Inv, State.MemCanonical, State.HaltHasCause, State.InfoMatchesCause, State.CauseIsRaisable,
    State.IndexInRange, State.WaitEndsAtFault, State.PresentIsCurrent, hmem, hi, hwait, hrun, hcause, hinfo, hfb,
    hpresents] using hs

theorem State.Inv.setMem {s : State} (hs : s.Inv) {m : Memory} (hm : Memory.wf m = true) : (s.setMem m).Inv := by
  obtain ⟨-, hrest⟩ := hs
  exact ⟨hm, hrest⟩

theorem State.Inv.writeBytes {s : State} (hs : s.Inv) (a : Nat) (bs : List Byte) :
    (s.setMem (Memory.writeBytes s.mem a bs)).Inv := by
  have hmem : s.MemCanonical := hs.1
  exact hs.setMem (Memory.wf_writeBytes hmem a bs)

theorem State.Inv.setI {s : State} (hs : s.Inv) {a : Word} (ha : a.toNat < 4096) : (s.setI a).Inv := by
  obtain ⟨hmem, hhalt, hinfo, hraisable, -, hwait, hpresent⟩ := hs
  exact ⟨hmem, hhalt, hinfo, hraisable, ha, hwait, hpresent⟩

theorem State.Inv.present {s : State} (hs : s.Inv) (fb : Framebuffer) : (s.present fb).Inv := by
  obtain ⟨hmem, hhalt, hinfo, hraisable, hi, hwait, -⟩ := hs
  exact ⟨hmem, hhalt, hinfo, hraisable, hi, hwait, rfl⟩

/-- A running machine may begin or end a wait. -/
theorem State.Inv.setWait {s : State} (hs : s.Inv) (hrun : s.run = .running) (w : Wait) : (s.setWait w).Inv := by
  obtain ⟨hmem, hhalt, hinfo, hraisable, hi, -, hpresent⟩ := hs
  have hwait : (s.setWait w).WaitEndsAtFault := fun hhalted => by simp [hrun] at hhalted
  exact ⟨hmem, hhalt, hinfo, hraisable, hi, hwait, hpresent⟩

/-- Raising a condition that can be raised, outside a wait unless it is the stop, with INFO as the cause has it (R257). -/
theorem State.Inv.raise {s : State} (hs : s.Inv) {c : Cause} {a : Word} (hc : c ≠ .none)
    (hraisable : c ≠ .stackUnderflow ∧ c ≠ .invalidRegister)
    (hinfo : c ≠ .unsupportedOpcode → c ≠ .stackOverflow → a = 0#16) (hwait : c ≠ .stop → s.wait = .none) :
    (s.raise c a).Inv := by
  obtain ⟨hmem, -, -, -, hi, -, hpresent⟩ := hs
  have hhalt : (s.raise c a).HaltHasCause := ⟨fun h => absurd h hc, nofun⟩
  exact ⟨hmem, hhalt, hinfo, hraisable, hi, fun _ => hwait, hpresent⟩

/-! ### The reset -/

/-- Settles O59: at reset memory lists nothing, RUN is Running with no cause, and the clear framebuffer stands for the
empty list of Present events. -/
theorem resetMeetsTheInvariant : Obligations.ResetMeetsTheInvariant := by
  have hmem : State.reset.MemCanonical := Memory.wf_nil
  have hhalt : State.reset.HaltHasCause := iff_of_true rfl rfl
  have hinfo : State.reset.InfoMatchesCause := fun _ _ => rfl
  have hraisable : State.reset.CauseIsRaisable := ⟨nofun, nofun⟩
  have hi : State.reset.IndexInRange := by unfold State.IndexInRange; decide
  have hwait : State.reset.WaitEndsAtFault := fun _ _ => rfl
  have hpresent : State.reset.PresentIsCurrent := rfl
  exact ⟨hmem, hhalt, hinfo, hraisable, hi, hwait, hpresent⟩

/-- The machine a reset creates before it looks at the ROM: every field at its reset value, the environment's fields kept
(R290; log 1). -/
def State.recreated (s : State) : State :=
  { State.reset with inputs := s.inputs, pending := s.pending, drawn := s.drawn }

/-- A ROM of more than 3584 bytes is not loaded (R296). -/
theorem State.boot_tooLarge (s : State) {rom : List Byte} (h : 3584 < rom.length) :
    s.boot rom = s.recreated.raise .romTooLarge 0#16 := if_pos h

/-- A ROM of at most 3584 bytes is loaded at 0x200 (R295). -/
theorem State.boot_fits (s : State) {rom : List Byte} (h : rom.length ≤ 3584) :
    s.boot rom = s.recreated.setMem (Memory.writeBytes [] 0x200 rom) := if_neg (Nat.not_lt.2 h)

theorem State.recreated_inv (s : State) : s.recreated.Inv :=
  State.Inv.congr (s := State.reset) resetMeetsTheInvariant rfl rfl rfl rfl rfl rfl rfl rfl

/-- A reset creates a machine that meets the invariant, from any state. -/
theorem State.boot_inv (s : State) (rom : List Byte) : (s.boot rom).Inv := by
  rcases Nat.lt_or_ge 3584 rom.length with hlarge | hfits
  · rw [s.boot_tooLarge hlarge]
    exact s.recreated_inv.raise nofun ⟨nofun, nofun⟩ (fun _ _ => rfl) fun _ => rfl
  · rw [s.boot_fits hfits]
    exact s.recreated_inv.writeBytes 0x200 rom

/-! ### Instructions and steps -/

/-- An instruction that an enabled cycle runs keeps the invariant. -/
theorem exec_keeps_inv {i : Instr} {s t : State} (hs : s.Inv) (hen : s.CycleEnabled) (h : exec i s = .next t) :
    t.Inv := by
  obtain ⟨hrun, hwait⟩ := hen
  cases effect_of_exec h with
  | callFull => exact hs.raise nofun ⟨nofun, nofun⟩ (fun _ hne => absurd rfl hne) fun _ => hwait
  | retEmpty => exact hs.raise nofun ⟨nofun, nofun⟩ (fun _ _ => rfl) fun _ => hwait
  | sysUnsupported => exact hs.raise nofun ⟨nofun, nofun⟩ (fun hne => absurd rfl hne) fun _ => hwait
  | cls => exact hs.present _
  | drw => exact (State.Inv.congr hs).present _
  | ldI nnn => exact hs.setI (by rw [addrImm_toNat]; exact nnn.isLt)
  | addIVx x => exact hs.setI (by rw [State.indexSum_toNat]; exact Nat.mod_lt _ (by decide))
  | ldFVx x => exact hs.setI (by rw [State.glyphAddr_toNat]; have := (s.reg x).isLt; omega)
  | ldBVx | ldMiVx => exact hs.writeBytes _ _
  | ldVxK => exact hs.setWait hrun _
  | _ => exact hs.congr

/-- Settles O58: by what a step can do, each update keeps the invariant. -/
theorem everyStepKeepsTheInvariant : Obligations.EveryStepKeepsTheInvariant := by
  intro s t hs hstep
  have htake : s.takeEvent.Inv := hs.congr
  have hfetched (c : CycleInputs) : (s.takeEvent.latch c).advancePc.Inv := htake.congr
  rcases step_cases hstep with rfl | ⟨c, i, -, ⟨hrun, hwait⟩, -, hexec⟩ | ⟨c, e, -, ⟨-, hwait⟩, -, rfl⟩ | ⟨-, -, rfl⟩ |
    ⟨k, r, -, hrun, -, rfl⟩ | ⟨-, -, rfl⟩ | ⟨rom, -, rfl⟩
  · exact htake
  · exact exec_keeps_inv (hfetched c) ⟨by simpa using hrun, by simpa using hwait⟩ hexec
  · exact (hfetched c).raise nofun ⟨nofun, nofun⟩ (fun hne => absurd rfl hne) fun _ => by simpa using hwait
  · exact htake.congr
  · exact htake.congr.setWait (by simpa using hrun) _
  · exact htake.raise nofun ⟨nofun, nofun⟩ (fun _ _ => rfl) fun hne => absurd rfl hne
  · exact s.takeEvent.boot_inv rom

end Sys2Proof.Machine
end

section
/-! PROOFS. The reset state (10_state.md R46), a reset from any state (R290, R295, R296) and the cycle that a key wait
holds back (R35). -/

namespace Sys2Proof.Machine

/-! ### The reset state (R46) -/

theorem State.reset_reg (r : Reg) : State.reset.reg r = 0#8 := by simp [State.reg, State.reset, Config.vReset]

theorem State.reset_stack (k : Fin 16) : State.reset.stack[k] = 0#16 := by simp [State.reset, Config.stackReset]

/-- Memory in which nothing is listed reads as the font, then the fill byte (R46, R293). -/
theorem Memory.read_nil_of_lt {a : Nat} (ha : a < 4096) : Memory.read [] a = fontTable.getD a 0#8 := by
  rw [Memory.read_nil, Nat.mod_eq_of_lt ha, Memory.resetByte, memFill]

/-- The loaded ROM stands from 0x200 (R295). -/
theorem Memory.read_rom {rom : List Byte} (hlen : rom.length ≤ 3584) (k : Nat) (hk : k < rom.length) :
    Memory.read (Memory.writeBytes [] 0x200 rom) (0x200 + k) = rom[k] :=
  Memory.read_writeBytes Memory.wf_nil _ _ rom (by omega) k hk rfl

/-- Outside the loaded ROM memory holds the font and the fill byte (R46, R295). -/
theorem Memory.read_outside_rom {rom : List Byte} (hlen : rom.length ≤ 3584) {a : Nat} (ha : a < 4096)
    (hout : a < 0x200 ∨ 0x200 + rom.length ≤ a) :
    Memory.read (Memory.writeBytes [] 0x200 rom) a = fontTable.getD a 0#8 := by
  rw [Memory.read_writeBytes_outside Memory.wf_nil, Memory.read_nil_of_lt ha]
  intro k hk
  omega

/-- Settles O18: the registers by definition, the pixels of the clear framebuffer, and the font as what empty memory reads
as. -/
theorem resetStateHoldsTheStatedValues : Obligations.ResetStateHoldsTheStatedValues := by
  have hfont (k : Nat) (hk : k < fontTable.length) : Memory.read State.reset.mem k = fontTable[k] := by
    have hlt : k < 80 := hk
    exact (Memory.read_nil_of_lt (by omega)).trans (List.getD_eq_getElem _ _ hk)
  exact ⟨rfl, rfl, rfl, rfl, rfl, rfl, Framebuffer.pixel_clear, rfl, hfont⟩

/-! ### A reset from any state (R290) -/

/-- The step a reset event takes. -/
theorem step_reset {s : State} {rom : List Byte} (h : s.nextEvent = .reset rom) :
    step s = .next (s.takeEvent.boot rom) := step_of_event h

/-- Settles O16: with a ROM that fits, the machine created again with the ROM loaded; else the same machine, nothing
loaded, halted. -/
theorem resetCreatesTheMachineAgain : Obligations.ResetCreatesTheMachineAgain := by
  intro s rom hevent
  refine ⟨_, step_reset hevent, ?_⟩
  by_cases hfits : rom.length ≤ 3584
  · rw [s.takeEvent.boot_fits hfits, if_pos hfits]
    exact ⟨rfl, rfl, rfl, rfl, rfl, rfl, rfl, rfl, State.reset_reg, State.reset_stack, Framebuffer.pixel_clear, rfl, rfl,
      Memory.read_rom hfits, fun _ => Memory.read_outside_rom hfits⟩
  · rw [s.takeEvent.boot_tooLarge (Nat.lt_of_not_le hfits), if_neg hfits]
    exact ⟨rfl, rfl, rfl, rfl, rfl, rfl, rfl, rfl, State.reset_reg, State.reset_stack, Framebuffer.pixel_clear, rfl, rfl,
      fun _ => Memory.read_nil_of_lt⟩

/-! ### The key wait (R35) -/

/-- Settles O13: in a key wait no cycle is enabled, so the step takes the event and nothing else. -/
theorem keyWaitFetchesNothing : Obligations.KeyWaitFetchesNothing := by
  intro s r c _ hwait hevent
  have hdisabled : ¬ s.takeEvent.CycleEnabled := fun ⟨_, hnone⟩ => by simp [hwait] at hnone
  exact ⟨s.takeEvent, (step_of_event hevent).trans (by simp only [handle, if_neg hdisabled]), s.takeEvent_eq⟩

end Sys2Proof.Machine
end

section
/-! PROOFS. The rules over all instructions (10_state.md R23, R24, R26, R27, R33): by `Effect`, every instruction outside
the ones a rule names keeps the field the rule is about. -/

namespace Sys2Proof.Machine

/-- Settles O48: only the effects of 00E0 and Dxyn present. -/
theorem onlyTwoInstructionsTouchTheScreen : Obligations.OnlyTwoInstructionsTouchTheScreen := by
  intro i s t hexec hcls hdrw
  cases effect_of_exec hexec with
  | cls => exact absurd rfl hcls
  | drw x y n => exact absurd rfl (hdrw x y n)
  | _ => exact ⟨by simp, by simp⟩

/-- Settles O49: only the effects of 2nnn and 00EE move SP or write an entry. -/
theorem onlyCallAndRetTouchTheStack : Obligations.OnlyCallAndRetTouchTheStack := by
  intro i s t hexec hret hcall
  cases effect_of_exec hexec with
  | call nnn => exact absurd rfl (hcall nnn)
  | ret => exact absurd rfl hret
  | _ => exact ⟨by simp, by simp⟩

/-- Settles O51: only the effects of Annn, Fx1E and Fx29 set I. -/
theorem onlyThreeInstructionsWriteI : Obligations.OnlyThreeInstructionsWriteI := by
  intro i s t hexec hldI haddI hldF
  cases effect_of_exec hexec with
  | ldI nnn => exact absurd rfl (hldI nnn)
  | addIVx x => exact absurd rfl (haddI x)
  | ldFVx x => exact absurd rfl (hldF x)
  | _ => simp

/-- Settles O52: only the effects of jumps, skips, calls and returns set PC. -/
theorem otherInstructionsKeepThePostFetchPc : Obligations.OtherInstructionsKeepThePostFetchPc := by
  intro i s t hexec hkeeps
  cases effect_of_exec hexec with
  | jump a hp | skip c hp => exact absurd (hp.symm.trans hkeeps) nofun
  | call | ret => exact absurd hkeeps nofun
  | _ => simp

/-! ### VF (R22, R23) -/

/-- A flag writer whose destination is not VF leaves its flag of the table in VF. -/
theorem Effect.reg_VF_of_flagOf {i : Instr} {s t : State} {f : Bool} (h : Effect s i t) (hdest : destReg i ≠ some VF)
    (hflag : flagOf s i = some f) : t.reg VF = flagByte f := by
  cases h with
  | setReg b hd hf | jump a hp hf | skip c hp hf => simp [hf] at hflag
  | resultThenFlag b hd hf | drw x y n fb hf =>
    obtain rfl : _ = f := Option.some.inj (hf.symm.trans hflag)
    simp
  | @flagThenResult _ x _ b hd hf =>
    obtain rfl : _ = f := Option.some.inj (hf.symm.trans hflag)
    have hx : VF ≠ x := fun hx => hdest (hx ▸ hd)
    rw [State.reg_flagThenResult, if_neg hx, if_pos rfl]
  | _ => cases hflag

/-- An instruction with no flag whose destination is not VF keeps VF, Fx65 with `x = 15` apart. -/
theorem Effect.reg_VF_of_no_flag {i : Instr} {s t : State} (h : Effect s i t) (hdest : destReg i ≠ some VF)
    (hflag : flagOf s i = none) (hload : i ≠ .ldVxMi VF) : t.reg VF = s.reg VF := by
  cases h with
  | resultThenFlag b hd hf | flagThenResult b hd hf | drw x y n fb hf => simp [hf] at hflag
  | @setReg _ x b hd =>
    have hx : VF ≠ x := fun hx => hdest (hx ▸ hd)
    rw [State.reg_setReg, if_neg hx]
  | ldVxMi x =>
    have hx : x.toNat ≠ 15 := fun hx => hload (congrArg Instr.ldVxMi (BitVec.eq_of_toNat_eq hx))
    have hkept : ¬ VF.toNat ≤ x.toNat := fun hle => by
      have hlt := x.isLt
      have h15 : 15 ≤ x.toNat := hle
      omega
    rw [State.reg_loadRegBlock, if_neg hkept]
  | _ => simp [State.reg]

/-- Settles O47: the flag writers by the table's flag, the others by keeping VF. -/
theorem vfIsWrittenAsTheTableSays : Obligations.VfIsWrittenAsTheTableSays := by
  intro i s t hexec hdest
  have heff := effect_of_exec hexec
  exact ⟨fun f => heff.reg_VF_of_flagOf hdest, heff.reg_VF_of_no_flag hdest⟩

end Sys2Proof.Machine
end

section
/-! PROOFS. Fetches and stores (20_memory.md R63, R65, R70): the two bytes of a fetch, the byte a fetch takes from a cell
that was stored to, and which instructions store. -/

namespace Sys2Proof.Machine

/-! ### The bytes of a fetch (R63) -/

theorem State.fetchWord_div_256 (s : State) : s.fetchWord.toNat / 256 = (Memory.read s.mem s.pc.toNat).toNat := by
  have hlo := (Memory.read s.mem (s.pc.toNat + 1)).isLt
  rw [s.fetchWord_toNat]
  omega

theorem State.fetchWord_mod_256 (s : State) :
    s.fetchWord.toNat % 256 = (Memory.read s.mem (s.pc.toNat + 1)).toNat := by
  have hlo := (Memory.read s.mem (s.pc.toNat + 1)).isLt
  rw [s.fetchWord_toNat]
  omega

theorem Memory.read_mod (m : Memory) (a : Nat) : Memory.read m (a % 4096) = Memory.read m a :=
  m.read_congr (Nat.mod_mod a 4096)

/-- Settles O8: a read reduces its address by itself, and the addition to PC is one of 16-bit words. -/
theorem fetchIsBigEndianAndAdvancesPc : Obligations.FetchIsBigEndianAndAdvancesPc := by
  intro s
  refine ⟨?word, ?advance⟩
  case word => rw [Memory.read_mod, Memory.read_mod, s.fetchWord_toNat]
  case advance => exact BitVec.toNat_add s.pc 2#16

/-! ### Stored bytes are fetched (R70) -/

/-- A fetch from memory with a block of bytes written to it: byte `k` of the block is the word's high byte where PC is at
its cell, and its low byte where PC is one below. -/
theorem State.fetchWord_of_writeBytes {m : Memory} {u : State} {a : Nat} {vs : List Byte} (hm : Memory.wf m = true)
    (hmem : u.mem = Memory.writeBytes m a vs) (hlen : vs.length ≤ 4096) {k : Nat} (hk : k < vs.length) :
    (u.pc.toNat % 4096 = (a + k) % 4096 → u.fetchWord.toNat / 256 = vs[k].toNat) ∧
    ((u.pc.toNat + 1) % 4096 = (a + k) % 4096 → u.fetchWord.toNat % 256 = vs[k].toNat) := by
  refine ⟨fun hpc => ?high, fun hpc => ?low⟩
  case high => rw [u.fetchWord_div_256, hmem, Memory.read_writeBytes hm a _ vs hlen k hk hpc]
  case low => rw [u.fetchWord_mod_256, hmem, Memory.read_writeBytes hm a _ vs hlen k hk hpc]

/-- The digit of weight `10 ^ (2 - k)` stands at offset `k` (R194). -/
theorem getElem_bcdDigits_toNat (a : Byte) {k : Nat} (hk : k < (bcdDigits a).length) :
    (bcdDigits a)[k].toNat = a.toNat / 10 ^ (2 - k) % 10 := by
  have ha := a.isLt
  match k, hk with
  | 0, _ | 1, _ | 2, _ => simp [bcdDigits]; omega

/-- Settles O44: each store writes a block of bytes, the registers or the digits, and a fetch takes them from it. -/
theorem storedBytesAreFetched : Obligations.StoredBytesAreFetched := by
  intro s x hm
  refine ⟨⟨_, rfl, fun u hmem k hkx => ?registers⟩, ⟨_, rfl, fun u hmem k hk => ?digits⟩⟩
  case registers =>
    have hlen : (s.regBlock x).length ≤ 4096 := by
      have hx := x.isLt
      rw [State.length_regBlock]
      omega
    have hk : k.toNat < (s.regBlock x).length := by
      rw [State.length_regBlock]
      exact Nat.lt_succ_of_le hkx
    have hbyte : (s.regBlock x)[k.toNat] = s.reg k := by simp
    rw [← hbyte]
    exact State.fetchWord_of_writeBytes hm hmem hlen hk
  case digits =>
    rw [← getElem_bcdDigits_toNat (s.reg x) hk]
    exact State.fetchWord_of_writeBytes hm hmem (by simp) hk

/-! ### Which instructions store (R65) -/

/-- Settles O50: only the effects of Fx33 and Fx55 set memory. -/
theorem onlyTwoInstructionsStore : Obligations.OnlyTwoInstructionsStore := by
  intro i s t hexec hbcd hblock
  cases effect_of_exec hexec with
  | ldBVx x => exact absurd rfl (hbcd x)
  | ldMiVx x => exact absurd rfl (hblock x)
  | _ => simp

end Sys2Proof.Machine
end

section
/-! PROOFS. Every well-formed instruction is what its two bytes decode to (30_encoding.md R90, R94, R95), and one word of
each layout. -/

namespace Sys2Proof

/-! ### Decoding an encoded instruction -/

/-- Layout NNN in class 0 is SYS where the operand is neither that of CLS nor that of RET (R96). -/
theorem decodeClass0_wordNNN {nnn : Addr12} (h : sysOperandOk nnn) :
    decodeClass0 (wordNNN 0x0 nnn) = .ok (.sys nnn) := by
  obtain ⟨hcls, hret⟩ := h
  have operand (w : Word) (hw : wordNNN 0x0 nnn = w) : nnn = opNNN w := by rw [← hw, opNNN_wordNNN]
  rw [decodeClass0, if_neg fun hw => hcls (operand 0x00E0 hw), if_neg fun hw => hret (operand 0x00EE hw), opNNN_wordNNN]

/-- The word of a well-formed instruction decodes to it: the class, and in the classes with a second level the low nibble
or the low byte, selects the instruction, and each operand is read from the field it was put in. -/
theorem decodeWord_encode {i : Instr} (h : i.WellFormed) : decodeWord (encode i) = .ok i := by
  cases i with
  | cls | ret => rfl
  | sys nnn => simpa [decodeWord, encode] using decodeClass0_wordNNN (of_decide_eq_true h)
  | jp | call | ldI | jpV0 => simp [decodeWord, encode]
  | seVxKk | sneVxKk | ldVxKk | addVxKk | rnd => simp [decodeWord, encode]
  | drw => simp [decodeWord, encode]
  | seVxVy => simp [decodeWord, encode, decodeClass5]
  | ldVxVy | or | and | xor | addVxVy | sub | shr | subn | shl => simp [decodeWord, encode, decodeClass8]
  | sneVxVy => simp [decodeWord, encode, decodeClass9]
  | skp | sknp => simp [decodeWord, encode, decodeClassE]
  | ldVxDt | ldVxK | ldDtVx | ldStVx | addIVx | ldFVx | ldBVx | ldMiVx | ldVxMi =>
    simp [decodeWord, encode, decodeClassF]

/-- The decoder of lists of bytes reads two bytes as one word and leaves the rest (R90). -/
theorem decode_of_decodeWord {hi lo : Byte} {i : Instr} (h : decodeWord (wordOfBytes hi lo) = .ok i)
    (rest : List Byte) : decode (hi :: lo :: rest) = .ok (i, rest) := by
  rw [decode, h]

/-- Settles O2: the two bytes make the instruction's word again, and that word decodes to it. -/
theorem decodeOfEncodeIsIdentity : Obligations.DecodeOfEncodeIsIdentity := by
  intro i rest hi
  refine decode_of_decodeWord ?_ rest
  rw [wordOfBytes_wordHi_wordLo, decodeWord_encode hi]

/-- Settles O1: by evaluating the decoder on the fourteen words. -/
theorem sampleWordsDecode : Obligations.SampleWordsDecode := by
  unfold Obligations.SampleWordsDecode
  decide

end Sys2Proof
end

section
/-! PROOFS. What a word can decode to, said once (30_encoding.md R94 to R102): `Reading` holds of a legal word's instruction
and of a word outside the opcode map, and `decodeWord_reading` shows that the decoder answers one of the two. -/

namespace Sys2Proof

/-! ### Words with a known class and low field -/

theorem wordNNN_of_class {op : Word} {c : BitVec 4} (hc : opClass op = c) : wordNNN c (opNNN op) = op := by
  rw [← hc, wordNNN_fields]

theorem wordXKK_of_class {op : Word} {c : BitVec 4} (hc : opClass op = c) : wordXKK c (opX op) (opKK op) = op := by
  rw [← hc, wordXKK_fields]

theorem wordXYN_of_class {op : Word} {c : BitVec 4} (hc : opClass op = c) :
    wordXYN c (opX op) (opY op) (opN op) = op := by
  rw [← hc, wordXYN_fields]

theorem wordXYN_of_class_of_opN {op : Word} {c : BitVec 4} {n : Nibble} (hc : opClass op = c) (hn : opN op = n) :
    wordXYN c (opX op) (opY op) n = op := by
  rw [← hn, wordXYN_of_class hc]

theorem wordXKK_of_class_of_opKK {op : Word} {c : BitVec 4} {kk : Byte} (hc : opClass op = c) (hkk : opKK op = kk) :
    wordXKK c (opX op) kk = op := by
  rw [← hkk, wordXKK_of_class hc]

/-! ### The two kinds of words -/

/-- The words outside the opcode map, by class (R97 to R101). -/
def OutsideTheMap (op : Word) : Prop :=
  (((opClass op).toNat = 0x5 ∨ (opClass op).toNat = 0x9) ∧ (opN op).toNat ≠ 0) ∨
  ((opClass op).toNat = 0x8 ∧ (opN op).toNat ∈ [0x8, 0x9, 0xA, 0xB, 0xC, 0xD, 0xF]) ∨
  ((opClass op).toNat = 0xE ∧ (opKK op).toNat ∉ [0x9E, 0xA1]) ∨
  ((opClass op).toNat = 0xF ∧ (opKK op).toNat ∉ [0x07, 0x0A, 0x15, 0x18, 0x1E, 0x29, 0x33, 0x55, 0x65])

/-- The word of an instruction is in the map. -/
theorem not_outsideTheMap_encode (i : Instr) : ¬ OutsideTheMap (encode i) := by
  cases i with
  | cls | ret => unfold OutsideTheMap; decide
  | _ => simp [OutsideTheMap, encode]

/-- What the decoder can answer for the word `op`. -/
inductive Reading (op : Word) : Except Illegal Instr → Prop
  /-- A well-formed instruction whose word is `op`. -/
  | legal {i : Instr} (hwf : i.WellFormed) (hword : encode i = op) : Reading op (.ok i)
  /-- A reason, for a word outside the map. -/
  | illegal {e : Illegal} (h : OutsideTheMap op) : Reading op (.error e)

/-! ### The classes with a second level -/

theorem decodeClass0_reading {op : Word} (hc : opClass op = 0x0) : Reading op (decodeClass0 op) := by
  unfold decodeClass0
  split
  next hcls => exact .legal rfl hcls.symm
  next hcls =>
    split
    next hret => exact .legal rfl hret.symm
    next hret =>
      have hword : wordNNN 0x0 (opNNN op) = op := wordNNN_of_class hc
      have hoperand : sysOperandOk (opNNN op) :=
        ⟨fun h => hcls (by rw [← hword, h]; rfl), fun h => hret (by rw [← hword, h]; rfl)⟩
      exact .legal (decide_eq_true hoperand) hword

theorem decodeClass5_reading {op : Word} (hc : opClass op = 0x5) : Reading op (decodeClass5 op) := by
  unfold decodeClass5
  split
  next hn => exact .legal rfl (wordXYN_of_class_of_opN hc hn)
  next hn => exact .illegal (.inl ⟨.inl (by rw [hc]; rfl), fun h => hn (BitVec.eq_of_toNat_eq h)⟩)

theorem decodeClass9_reading {op : Word} (hc : opClass op = 0x9) : Reading op (decodeClass9 op) := by
  unfold decodeClass9
  split
  next hn => exact .legal rfl (wordXYN_of_class_of_opN hc hn)
  next hn => exact .illegal (.inl ⟨.inr (by rw [hc]; rfl), fun h => hn (BitVec.eq_of_toNat_eq h)⟩)

theorem decodeClass8_reading {op : Word} (hc : opClass op = 0x8) : Reading op (decodeClass8 op) := by
  unfold decodeClass8
  split
  case h_10 =>
    have hlt := (opN op).isLt
    simp only [imp_false] at *
    exact .illegal (.inr (.inl ⟨by rw [hc]; rfl, by simp; omega⟩))
  all_goals
    next hn => exact .legal rfl (wordXYN_of_class_of_opN hc (BitVec.eq_of_toNat_eq hn))

theorem decodeClassE_reading {op : Word} (hc : opClass op = 0xE) : Reading op (decodeClassE op) := by
  unfold decodeClassE
  split
  case h_3 =>
    simp only [imp_false] at *
    exact .illegal (.inr (.inr (.inl ⟨by rw [hc]; rfl, by simp; omega⟩)))
  all_goals
    next hkk => exact .legal rfl (wordXKK_of_class_of_opKK hc (BitVec.eq_of_toNat_eq hkk))

theorem decodeClassF_reading {op : Word} (hc : opClass op = 0xF) : Reading op (decodeClassF op) := by
  unfold decodeClassF
  split
  case h_10 =>
    simp only [imp_false] at *
    exact .illegal (.inr (.inr (.inr ⟨by rw [hc]; rfl, by simp; omega⟩)))
  all_goals
    next hkk => exact .legal rfl (wordXKK_of_class_of_opKK hc (BitVec.eq_of_toNat_eq hkk))

/-! ### Every word -/

theorem decodeWord_reading (op : Word) : Reading op (decodeWord op) := by
  have hclass {c : BitVec 4} (h : (opClass op).toNat = c.toNat) : opClass op = c := BitVec.eq_of_toNat_eq h
  unfold decodeWord
  split
  next h => exact decodeClass0_reading (hclass h)
  next h => exact .legal rfl (wordNNN_of_class (hclass h))
  next h => exact .legal rfl (wordNNN_of_class (hclass h))
  next h => exact .legal rfl (wordXKK_of_class (hclass h))
  next h => exact .legal rfl (wordXKK_of_class (hclass h))
  next h => exact decodeClass5_reading (hclass h)
  next h => exact .legal rfl (wordXKK_of_class (hclass h))
  next h => exact .legal rfl (wordXKK_of_class (hclass h))
  next h => exact decodeClass8_reading (hclass h)
  next h => exact decodeClass9_reading (hclass h)
  next h => exact .legal rfl (wordNNN_of_class (hclass h))
  next h => exact .legal rfl (wordNNN_of_class (hclass h))
  next h => exact .legal rfl (wordXKK_of_class (hclass h))
  next h => exact .legal rfl (wordXYN_of_class (hclass h))
  next h => exact decodeClassE_reading (hclass h)
  next =>
    have hlt := (opClass op).isLt
    simp only [imp_false] at *
    have h15 : (opClass op).toNat = 15 := by omega
    exact decodeClassF_reading (hclass h15)

/-- A word that decodes is the word of its instruction. -/
theorem reading_of_decodeWord_ok {op : Word} {i : Instr} (h : decodeWord op = .ok i) :
    i.WellFormed ∧ encode i = op := by
  have hread := decodeWord_reading op
  rw [h] at hread
  cases hread with
  | legal hwf hword => exact ⟨hwf, hword⟩

/-- Settles O3: an instruction is the answer only for its own word, and only where it is well-formed. -/
theorem encodeOfDecodeIsIdentity : Obligations.EncodeOfDecodeIsIdentity :=
  fun _ _ => reading_of_decodeWord_ok

/-- Settles O4: an answer with a reason is for a word outside the map, and no word of an instruction is outside it. -/
theorem illegalWordsAreTheListed : Obligations.IllegalWordsAreTheListed := by
  intro op
  change (∃ e, decodeWord op = .error e) ↔ OutsideTheMap op
  have hread := decodeWord_reading op
  generalize decodeWord op = r at hread
  cases hread with
  | @legal i _ hword =>
    have hin : ¬ OutsideTheMap op := hword ▸ not_outsideTheMap_encode i
    exact iff_of_false nofun hin
  | @illegal e hout => exact iff_of_true ⟨e, rfl⟩ hout

end Sys2Proof
end

section
/-! PROOFS. Row selection by mask and match (30_encoding.md R95, R96): a word that matches a row is the word of that row's
instruction with the operands read from the word. -/

namespace Sys2Proof

/-! ### The fields a mask fixes -/

theorem opClass_of_mask {op : Word} {c : BitVec 4} (h : op &&& 0xF000#16 = wordNNN c 0) : opClass op = c := by
  rw [← wordNNN_fields op, wordNNN_mask] at h
  simpa using congrArg opClass h

theorem wordXYN_of_maskN {op : Word} {c : BitVec 4} {n : Nibble} (h : op &&& 0xF00F#16 = wordXYN c 0 0 n) :
    wordXYN c (opX op) (opY op) n = op := by
  rw [← wordXYN_fields op, wordXYN_maskN] at h
  exact wordXYN_of_class_of_opN (by simpa using congrArg opClass h) (by simpa using congrArg opN h)

theorem wordXKK_of_maskKK {op : Word} {c : BitVec 4} {kk : Byte} (h : op &&& 0xF0FF#16 = wordXKK c 0 kk) :
    wordXKK c (opX op) kk = op := by
  rw [← wordXKK_fields op, wordXKK_maskKK] at h
  exact wordXKK_of_class_of_opKK (by simpa using congrArg opClass h) (by simpa using congrArg opKK h)

/-! ### The instruction of a row with a word's operands -/

/-- The instruction in the row of the one given, its operands read from the word `op`. -/
def Instr.withFieldsOf (op : Word) : Instr → Instr
  | .cls => .cls
  | .ret => .ret
  | .sys _ => .sys (opNNN op)
  | .jp _ => .jp (opNNN op)
  | .call _ => .call (opNNN op)
  | .seVxKk _ _ => .seVxKk (opX op) (opKK op)
  | .sneVxKk _ _ => .sneVxKk (opX op) (opKK op)
  | .seVxVy _ _ => .seVxVy (opX op) (opY op)
  | .ldVxKk _ _ => .ldVxKk (opX op) (opKK op)
  | .addVxKk _ _ => .addVxKk (opX op) (opKK op)
  | .ldVxVy _ _ => .ldVxVy (opX op) (opY op)
  | .or _ _ => .or (opX op) (opY op)
  | .and _ _ => .and (opX op) (opY op)
  | .xor _ _ => .xor (opX op) (opY op)
  | .addVxVy _ _ => .addVxVy (opX op) (opY op)
  | .sub _ _ => .sub (opX op) (opY op)
  | .shr _ _ => .shr (opX op) (opY op)
  | .subn _ _ => .subn (opX op) (opY op)
  | .shl _ _ => .shl (opX op) (opY op)
  | .sneVxVy _ _ => .sneVxVy (opX op) (opY op)
  | .ldI _ => .ldI (opNNN op)
  | .jpV0 _ => .jpV0 (opNNN op)
  | .rnd _ _ => .rnd (opX op) (opKK op)
  | .drw _ _ _ => .drw (opX op) (opY op) (opN op)
  | .skp _ => .skp (opX op)
  | .sknp _ => .sknp (opX op)
  | .ldVxDt _ => .ldVxDt (opX op)
  | .ldVxK _ => .ldVxK (opX op)
  | .ldDtVx _ => .ldDtVx (opX op)
  | .ldStVx _ => .ldStVx (opX op)
  | .addIVx _ => .addIVx (opX op)
  | .ldFVx _ => .ldFVx (opX op)
  | .ldBVx _ => .ldBVx (opX op)
  | .ldMiVx _ => .ldMiVx (opX op)
  | .ldVxMi _ => .ldVxMi (opX op)

theorem maskOf_withFieldsOf (op : Word) (i : Instr) : maskOf (i.withFieldsOf op) = maskOf i := by cases i <;> rfl

theorem matchOf_withFieldsOf (op : Word) (i : Instr) : matchOf (i.withFieldsOf op) = matchOf i := by cases i <;> rfl

/-- A word that matches the row of `i` is the word of the row's instruction with the word's operands. -/
theorem encode_withFieldsOf {op : Word} {i : Instr} (h : op &&& maskOf i = matchOf i) :
    encode (i.withFieldsOf op) = op := by
  cases i with
  | cls | ret => exact h.symm.trans BitVec.and_allOnes
  | sys | jp | call | ldI | jpV0 => exact wordNNN_of_class (opClass_of_mask h)
  | seVxKk | sneVxKk | ldVxKk | addVxKk | rnd => exact wordXKK_of_class (opClass_of_mask h)
  | drw => exact wordXYN_of_class (opClass_of_mask h)
  | seVxVy | ldVxVy | or | and | xor | addVxVy | sub | shr | subn | shl | sneVxVy => exact wordXYN_of_maskN h
  | skp | sknp | ldVxDt | ldVxK | ldDtVx | ldStVx | addIVx | ldFVx | ldBVx | ldMiVx | ldVxMi =>
    exact wordXKK_of_maskKK h

/-- The row's instruction with a word's operands is well-formed, where a SYS row is not taken for the words of CLS and
RET (R96). -/
theorem wellFormed_withFieldsOf {op : Word} {i : Instr} (hword : encode (i.withFieldsOf op) = op)
    (hsys : (∃ nnn, i = .sys nnn) → op ≠ 0x00E0 ∧ op ≠ 0x00EE) : (i.withFieldsOf op).WellFormed := by
  cases i with
  | sys nnn =>
    obtain ⟨hcls, hret⟩ := hsys ⟨nnn, rfl⟩
    have hoperand : sysOperandOk (opNNN op) :=
      ⟨fun h => hcls (hword ▸ congrArg (wordNNN 0x0) h), fun h => hret (hword ▸ congrArg (wordNNN 0x0) h)⟩
    exact decide_eq_true hoperand
  | _ => rfl

/-- The word of an instruction matches the instruction's row. -/
theorem encode_and_maskOf (i : Instr) : encode i &&& maskOf i = matchOf i := by
  cases i with
  | cls | ret => rfl
  | sys | jp | call | ldI | jpV0 => exact wordNNN_mask _ _
  | seVxKk | sneVxKk | ldVxKk | addVxKk | rnd => exact wordXKK_mask _ _ _
  | drw => exact wordXYN_mask _ _ _ _
  | seVxVy | ldVxVy | or | and | xor | addVxVy | sub | shr | subn | shl | sneVxVy => exact wordXYN_maskN _ _ _ _
  | skp | sknp | ldVxDt | ldVxK | ldDtVx | ldStVx | addIVx | ldFVx | ldBVx | ldMiVx | ldVxMi =>
    exact wordXKK_maskKK _ _ _

/-- Settles O6: a word that decodes is its instruction's word, which matches the row; a word that matches a row is the word
of the row's instruction with the word's operands, and decodes to it. -/
theorem maskAndMatchSelectTheRow : Obligations.MaskAndMatchSelectTheRow := by
  refine ⟨fun op i hdecode => ?selected, fun op i hmatch hsys => ?decodes⟩
  case selected =>
    obtain ⟨-, rfl⟩ := reading_of_decodeWord_ok hdecode
    exact encode_and_maskOf i
  case decodes =>
    have hword := encode_withFieldsOf hmatch
    have hdecode := decodeWord_encode (wellFormed_withFieldsOf hword hsys)
    rw [hword] at hdecode
    exact ⟨_, hdecode, maskOf_withFieldsOf op i, matchOf_withFieldsOf op i⟩

end Sys2Proof
end

section
/-! PROOFS. The engine cycle (40_execution_cycle.md R121 to R125): what an enabled cycle runs, where it halts the engine, and
that an instruction which halts it writes nothing else. -/

namespace Sys2Proof.Machine

/-! ### An enabled cycle (R121 to R123) -/

@[simp] theorem State.fetchWord_takeEvent (s : State) : s.takeEvent.fetchWord = s.fetchWord := by
  simp [State.fetchWord]

/-- The bytes at PC decode as the word fetched does, and none is left over (R63, R90). -/
theorem decode_bytes_at_pc_eq_ok {s : State} {i : Instr} :
    decode [Memory.read s.mem s.pc.toNat, Memory.read s.mem (s.pc.toNat + 1)] = .ok (i, []) ↔
      decodeWord s.fetchWord = .ok i := by
  rw [decode_bytes_at_pc]
  cases decodeWord s.fetchWord with
  | ok j => simp
  | error e => simp

/-- Where a cycle is enabled and is the next event, the step is that cycle. -/
theorem step_enabled_cycle {s : State} {c : CycleInputs} (hrun : s.run = .running) (hwait : s.wait = .none)
    (hevent : s.nextEvent = .cycle c) : step s = cycle c s.takeEvent := by
  have henabled : s.takeEvent.CycleEnabled := ⟨by simpa using hrun, by simpa using hwait⟩
  rw [step_of_event hevent, handle, if_pos henabled]

/-- A cycle that fetches a legal word runs its instruction. -/
theorem cycle_of_decodeWord_ok {s : State} {i : Instr} (c : CycleInputs) (h : decodeWord s.fetchWord = .ok i) :
    cycle c s = exec i (s.latch c).advancePc := by
  rw [cycle, h]

/-- A cycle that fetches an Illegal word raises UnsupportedOpcode at the post-fetch PC. -/
theorem cycle_of_decodeWord_error {s : State} {e : Illegal} (c : CycleInputs) (h : decodeWord s.fetchWord = .error e) :
    cycle c s = .next ((s.latch c).advancePc.raise .unsupportedOpcode s.fetchWord) := by
  rw [cycle, h]

/-- Settles O7: the step is an enabled cycle, and the word it fetches decodes as the two bytes do. -/
theorem stepRunsTheDecodedInstruction : Obligations.StepRunsTheDecodedInstruction := by
  intro s c i hrun hwait hevent hbytes
  have hword : decodeWord s.takeEvent.fetchWord = .ok i := by
    rw [State.fetchWord_takeEvent]
    exact decode_bytes_at_pc_eq_ok.1 hbytes
  rw [step_enabled_cycle hrun hwait hevent, cycle_of_decodeWord_ok c hword]

/-- Settles O9: the step is an enabled cycle, and what it raises changes RUN, CAUSE and INFO only. -/
theorem illegalWordHaltsTheEngine : Obligations.IllegalWordHaltsTheEngine := by
  rintro s c hrun hwait hevent ⟨e, hillegal⟩
  have hword : decodeWord s.takeEvent.fetchWord = .error e := by rw [State.fetchWord_takeEvent, hillegal]
  have hstep := (step_enabled_cycle hrun hwait hevent).trans (cycle_of_decodeWord_error c hword)
  exact ⟨_, hstep, rfl, rfl, by simp, by simp, fun r _ => by simp, by simp, fun a => by simp, ⟨by simp, by simp⟩,
    ⟨by simp, by simp⟩, by simp, ⟨by simp, by simp⟩⟩

/-! ### Instructions that halt the engine (R125, R259) -/

/-- An instruction that does not keep RUN has raised a condition and done nothing else: only a call with a full stack, a
return with an empty one and a SYS outside `SYS_NOP_SET` touch RUN. -/
theorem Effect.run_eq_or_eq_raise {i : Instr} {s t : State} (h : Effect s i t) :
    t.run = s.run ∨ ∃ c a, t = s.raise c a := by
  cases h with
  | callFull | retEmpty | sysUnsupported => exact .inr ⟨_, _, rfl⟩
  | _ => exact .inl (by simp)

/-- Settles O54: an instruction that halts a running engine does not keep RUN, so all it has done is raise a condition. -/
theorem fatalInstructionsWriteNothing : Obligations.FatalInstructionsWriteNothing := by
  intro i s t hexec hrunning hhalted
  rcases (effect_of_exec hexec).run_eq_or_eq_raise with hkept | ⟨c, a, rfl⟩
  · exact absurd (hhalted.symm.trans (hkept.trans hrunning)) nofun
  · exact ⟨fun r _ => s.raise_reg c a r, rfl, rfl, rfl, ⟨rfl, rfl⟩, ⟨rfl, rfl⟩, rfl, ⟨rfl, rfl⟩, rfl, rfl, rfl⟩

end Sys2Proof.Machine
end

section
/-! PROOFS. Control transfer (41_control_flow.md): jumps and skips set PC only, SYS does nothing or halts, and calls and
returns push and pop the stack. -/

namespace Sys2Proof.Machine

/-! ### Jumps (R143, R145) -/

theorem onlyPc_setPc (s : State) (a : Word) : OnlyPc s (s.setPc a) :=
  ⟨fun _ _ => rfl, rfl, fun _ => rfl, ⟨rfl, rfl⟩, ⟨rfl, rfl⟩, ⟨rfl, rfl, rfl⟩, rfl, ⟨rfl, rfl⟩, rfl, rfl, rfl⟩

/-- Settles O29: each jump sets PC, to its operand or to the reduced sum. -/
theorem jumpsSetPc : Obligations.JumpsSetPc := by
  refine fun s nnn => ⟨⟨_, rfl, ?jp, onlyPc_setPc s _⟩, ⟨_, rfl, ?jpV0, onlyPc_setPc s _⟩⟩
  case jp => exact addrImm_toNat nnn
  case jpV0 => exact s.jumpTargetV0_toNat nnn

/-! ### Skips (R140) -/

/-- A skip on the condition `p` adds 2 to PC where `p` holds, and changes nothing else. A skip that is not taken sets PC to
what it was. -/
theorem skipIf_decide (s : State) (p : Prop) [Decidable p] :
    OnlyPc s (s.skipIf (decide p)) ∧
      (s.skipIf (decide p)).pc.toNat = if p then (s.pc.toNat + 2) % 65536 else s.pc.toNat := by
  by_cases h : p
  · rw [decide_eq_true h, if_pos h]
    exact ⟨onlyPc_setPc s (s.pc + 2#16), BitVec.toNat_add s.pc 2#16⟩
  · rw [decide_eq_false h, if_neg h]
    exact ⟨onlyPc_setPc s s.pc, rfl⟩

/-- Settles O30: each skip is the shared one on its own comparison. -/
theorem skipsAdvancePcOnTheirCondition : Obligations.SkipsAdvancePcOnTheirCondition := fun s _ _ _ =>
  ⟨⟨_, rfl, skipIf_decide s _⟩, ⟨_, rfl, skipIf_decide s _⟩, ⟨_, rfl, skipIf_decide s _⟩, ⟨_, rfl, skipIf_decide s _⟩⟩

/-! ### SYS (R141) -/

/-- The word of SYS is its operand: the class nibble is 0. -/
theorem encode_sys_toNat (nnn : Addr12) : (encode (.sys nnn)).toNat = nnn.toNat := by
  rw [encode, wordNNN_toNat]
  exact Nat.zero_add _

theorem exec_sys_of_nop {nnn : Addr12} (s : State) (h : Config.sysNop nnn = true) : exec (.sys nnn) s = .next s := by
  rw [exec, execSys, if_pos h]

theorem exec_sys_of_unsupported {nnn : Addr12} (s : State) (h : ¬ Config.sysNop nnn = true) :
    exec (.sys nnn) s = .next (s.raise .unsupportedOpcode (encode (.sys nnn))) := by
  rw [exec, execSys, if_neg h]

/-- Settles O28: the state itself in `SYS_NOP_SET`, else the state with the condition raised on it. -/
theorem sysIsNopOrUnsupported : Obligations.SysIsNopOrUnsupported := by
  intro s nnn
  by_cases hnop : Config.sysNop nnn = true
  · refine ⟨s, exec_sys_of_nop s hnop, fun _ _ => rfl, rfl, rfl, fun _ => rfl, ⟨rfl, rfl⟩, ⟨rfl, rfl⟩, rfl, ⟨rfl, rfl⟩,
      ⟨rfl, rfl, rfl⟩, ?_⟩
    rw [if_pos hnop]
    exact ⟨rfl, rfl, rfl⟩
  · refine ⟨_, exec_sys_of_unsupported s hnop, fun _ _ => rfl, rfl, rfl, fun _ => rfl, ⟨rfl, rfl⟩, ⟨rfl, rfl⟩, rfl,
      ⟨rfl, rfl⟩, ⟨rfl, rfl, rfl⟩, ?_⟩
    rw [if_neg hnop]
    exact ⟨rfl, rfl, encode_sys_toNat nnn⟩

/-! ### Calls and returns (R142, R144) -/

/-- Settles O24: a call with room pushes, and an entry reads as the pushed PC exactly at the old SP. -/
theorem callPushesThePostFetchPc : Obligations.CallPushesThePostFetchPc := by
  intro s nnn hroom
  obtain ⟨t, hexec, -⟩ := exec_answers (.call nnn) s
  rcases exec_call_cases hexec with ⟨hlt, rfl⟩ | ⟨hfull, -⟩
  · have hentry (k : Fin 16) : (s.stack.set s.sp.val s.pc hlt)[k] = if k.val = s.sp.val then s.pc else s.stack[k] := by
      simp only [Fin.getElem_fin, Vector.getElem_set, eq_comm]
    exact ⟨_, hexec, rfl, hentry, addrImm_toNat nnn, fun _ _ => rfl, rfl, fun _ => rfl, ⟨rfl, rfl⟩, ⟨rfl, rfl, rfl⟩, rfl,
      ⟨rfl, rfl⟩, rfl, rfl, rfl⟩
  · exact absurd hfull hroom

/-- Settles O22: a return with an entry held pops it, the one below SP. -/
theorem retPopsIntoPc : Obligations.RetPopsIntoPc := by
  intro s hheld
  obtain ⟨t, hexec, -⟩ := exec_answers .ret s
  rcases exec_ret_cases hexec with ⟨hlt, -, rfl⟩ | ⟨hempty, -⟩
  · have hsp : s.sp.val - 1 + 1 = s.sp.val := Nat.sub_one_add_one fun h => hheld (Fin.ext h)
    have htop (k : Fin 16) (hk : k.val + 1 = s.sp.val) : s.stack[s.sp.val - 1] = s.stack[k] := by
      simp only [← hk, Nat.add_sub_cancel, Fin.getElem_fin]
    exact ⟨_, hexec, hsp, htop, rfl, fun _ _ => rfl, rfl, fun _ => rfl, ⟨rfl, rfl⟩, ⟨rfl, rfl, rfl⟩, rfl, ⟨rfl, rfl⟩, rfl,
      rfl, rfl⟩
  · exact absurd hempty hheld

/-- Settles O27: by O24 the entry at the old SP is the post-fetch PC, and by O22 the return pops that entry. -/
theorem returnUndoesCall : Obligations.ReturnUndoesCall := by
  intro s nnn hroom
  obtain ⟨t, hcall, htsp, hentry, -⟩ := callPushesThePostFetchPc s nnn hroom
  refine ⟨t, hcall, fun u ⟨husp, hustack⟩ => ?_⟩
  have hsp : s.sp.val + 1 = u.sp.val := by rw [husp, htsp]
  have hheld : u.sp ≠ 0 := fun h => by simp [h] at hsp
  obtain ⟨w, hret, hwsp, hpop, -⟩ := retPopsIntoPc u hheld
  let k : Fin 16 := ⟨s.sp.val, by have := u.sp.isLt; omega⟩
  have hpc : w.pc = s.pc := by rw [hpop k hsp, hustack, hentry k, if_pos rfl]
  exact ⟨w, hret, hpc, Fin.ext (by omega)⟩

/-! ### Calls in a row (R252, R254) -/

/-- A call with a full stack raises StackOverflow (R252). -/
theorem exec_call_of_full {s : State} (nnn : Addr12) (h : s.sp = 16) :
    exec (.call nnn) s = .next (s.raise .stackOverflow s.pc) := by
  obtain ⟨t, hexec, -⟩ := exec_answers (.call nnn) s
  rcases exec_call_cases hexec with ⟨hlt, -⟩ | ⟨-, rfl⟩
  · rw [h] at hlt
    exact absurd hlt (by decide)
  · exact hexec

/-- A return with an empty stack raises ReturnWithEmptyStack (R254). -/
theorem exec_ret_of_empty {s : State} (h : s.sp = 0) :
    exec .ret s = .next (s.raise .returnWithEmptyStack 0#16) := by
  rw [exec, execRet, if_pos h]

/-- As many calls in a row as the stack has room for raise nothing, and leave one entry more each. -/
theorem callMany_of_room (targets : List Addr12) : ∀ s : State, s.sp.val + targets.length ≤ 16 →
    ∃ t, callMany targets s = .next t ∧ SameRun s t ∧ t.sp.val = s.sp.val + targets.length := by
  induction targets with
  | nil => exact fun s _ => ⟨s, rfl, ⟨rfl, rfl, rfl⟩, rfl⟩
  | cons a targets ih =>
    intro s hroom
    rw [List.length_cons] at hroom ⊢
    have hfree : s.sp ≠ 16 := fun h => by simp [h] at hroom
    obtain ⟨t, hcall, htsp, -, -, -, -, -, -, ⟨hrun, hcause, hinfo⟩, -⟩ := callPushesThePostFetchPc s a hfree
    obtain ⟨u, hcalls, ⟨hrun', hcause', hinfo'⟩, husp⟩ := ih t (by omega)
    have hsame : SameRun s u := ⟨hrun'.trans hrun, hcause'.trans hcause, hinfo'.trans hinfo⟩
    exact ⟨u, by rw [callMany, hcall]; exact hcalls, hsame, by omega⟩

/-- Settles O26: the calls that fit succeed, and after sixteen of them SP is 16. -/
theorem sixteenCallsAndNoMore : Obligations.SixteenCallsAndNoMore := by
  have fits (s : State) (targets : List Addr12) (hempty : s.sp = 0) (hlen : targets.length ≤ 16) :
      ∃ t, callMany targets s = .next t ∧ SameRun s t ∧ t.sp.val = targets.length := by
    have hzero : s.sp.val = 0 := congrArg Fin.val hempty
    simpa only [hzero, Nat.zero_add] using callMany_of_room targets s (by omega)
  refine ⟨fits, fun s t targets last hempty hlen hcalls => ?overflow, fun s hempty => ?underflow⟩
  case overflow =>
    obtain ⟨t', hcalls', -, hsp⟩ := fits s targets hempty hlen.le
    obtain rfl : t' = t := next_inj.1 (hcalls'.symm.trans hcalls)
    have hfull : t'.sp = 16 := Fin.ext (hsp.trans hlen)
    exact ⟨_, exec_call_of_full last hfull, rfl, rfl⟩
  case underflow => exact ⟨_, exec_ret_of_empty hempty, rfl, rfl⟩

end Sys2Proof.Machine
end

section
/-! PROOFS. The register and ALU instructions (42_alu.md): what the three shared ways of writing registers leave in the
destination and in VF, that they change nothing else, and the numbers each computation gives. -/

namespace Sys2Proof.Machine

/-! ### Writes to the register file and their frame -/

/-- A new register file is a change to the registers it disagrees in, and to nothing else. -/
theorem onlyRegs_of_regsExcept {s : State} {v : Vector Byte 16} {xs : List Reg} (h : RegsExcept xs s { s with v := v }) :
    OnlyRegs xs s { s with v := v } :=
  ⟨h, rfl, rfl, fun _ => rfl, ⟨rfl, rfl⟩, ⟨rfl, rfl⟩, ⟨rfl, rfl, rfl⟩, rfl, ⟨rfl, rfl⟩, rfl, rfl, rfl⟩

/-- R20: a register write leaves its byte in the destination and changes nothing else. -/
theorem setReg_writes (s : State) (x : Reg) (b : Byte) :
    (s.setReg x b).reg x = b ∧ OnlyRegs [x] s (s.setReg x b) := by
  refine ⟨by rw [State.reg_setReg, if_pos rfl], onlyRegs_of_regsExcept fun r hr => ?_⟩
  exact (s.reg_setReg x r b).trans (if_neg (List.ne_of_not_mem_cons hr))

theorem onlyRegs_resultThenFlag (s : State) (x : Reg) (b : Byte) (f : Bool) :
    OnlyRegs [x, VF] s (s.resultThenFlag x b f) := by
  refine onlyRegs_of_regsExcept fun r hr => (s.reg_resultThenFlag x r b f).trans ?_
  obtain ⟨hx, hVF⟩ : r ≠ x ∧ r ≠ VF := by simpa using hr
  rw [if_neg hVF, if_neg hx]

theorem onlyRegs_flagThenResult (s : State) (x : Reg) (b : Byte) (f : Bool) :
    OnlyRegs [x, VF] s (s.flagThenResult x b f) := by
  refine onlyRegs_of_regsExcept fun r hr => (s.reg_flagThenResult x r b f).trans ?_
  obtain ⟨hx, hVF⟩ : r ≠ x ∧ r ≠ VF := by simpa using hr
  rw [if_neg hx, if_neg hVF]

/-! ### Loads, bitwise operations and the random byte (R161, R163 to R166, R172) -/

/-- Settles O32: both loads are one register write. -/
theorem loadsWriteOneRegister : Obligations.LoadsWriteOneRegister := fun s x y kk =>
  ⟨⟨_, rfl, setReg_writes s x kk⟩, ⟨_, rfl, setReg_writes s x (s.reg y)⟩⟩

/-- Settles O33: the three bitwise operations are one register write each. -/
theorem bitwiseOpsWriteNoFlag : Obligations.BitwiseOpsWriteNoFlag := fun s x _ =>
  ⟨⟨_, rfl, setReg_writes s x _⟩, ⟨_, rfl, setReg_writes s x _⟩, ⟨_, rfl, setReg_writes s x _⟩⟩

/-- Settles O37: RND is one register write, of a byte the mask has cut. -/
theorem rndMasksAFreeByte : Obligations.RndMasksAFreeByte := by
  intro s x kk
  obtain ⟨hwritten, honly⟩ := setReg_writes s x (s.inputs.rnd &&& kk)
  have hmasked : s.inputs.rnd &&& kk &&& ~~~kk = 0 := by
    rw [BitVec.and_assoc, BitVec.and_not_self, and_zero_field]
  exact ⟨_, rfl, hwritten, hwritten.symm ▸ hmasked, honly⟩

/-! ### Adds and subtractions: the result, then the flag (R126, R160) -/

theorem flagByte_decide (p : Prop) [Decidable p] : flagByte (decide p) = if p then 0x01#8 else 0x00#8 := by
  simp only [flagByte, decide_eq_true_eq]

/-- A result that is not overwritten by the flag stands in its register. -/
theorem reg_resultThenFlag_dest (s : State) {x : Reg} (b : Byte) (f : Bool) (hx : x ≠ VF) :
    (s.resultThenFlag x b f).reg x = b := by
  rw [State.reg_resultThenFlag, if_neg hx, if_pos rfl]

/-- The flag, written last, stands in VF as 1 or 0. -/
theorem reg_resultThenFlag_VF (s : State) (x : Reg) (b : Byte) (p : Prop) [Decidable p] :
    (s.resultThenFlag x b (decide p)).reg VF = if p then 0x01 else 0x00 := by
  rw [State.reg_resultThenFlag, if_pos rfl]
  exact flagByte_decide p

/-- R160: the difference of two bytes as an integer. -/
theorem subBytes_toNat_cast (a b : Byte) : ((subBytes a b).toNat : Int) = ((a.toNat : Int) - (b.toNat : Int)) % 256 := by
  have hb := b.isLt
  have hsub := subBytes_toNat a b
  omega

/-- Settles O34: both adds write the sum, then the carry. -/
theorem addsWriteSumThenCarry : Obligations.AddsWriteSumThenCarry := by
  refine fun s x y kk => ⟨⟨_, rfl, fun hx => ?immediate, reg_resultThenFlag_VF .., onlyRegs_resultThenFlag ..⟩,
    ⟨_, rfl, fun hx => ?register, reg_resultThenFlag_VF .., onlyRegs_resultThenFlag ..⟩⟩
  case immediate | register => rw [reg_resultThenFlag_dest s _ _ hx, addBytes_toNat]

/-- Settles O35: both subtractions write the difference, then no-borrow, each with its own minuend. -/
theorem subsWriteDifferenceThenNoBorrow : Obligations.SubsWriteDifferenceThenNoBorrow := by
  refine fun s x y => ⟨⟨_, rfl, fun hx => ?sub, reg_resultThenFlag_VF .., onlyRegs_resultThenFlag ..⟩,
    ⟨_, rfl, fun hx => ?subn, reg_resultThenFlag_VF .., onlyRegs_resultThenFlag ..⟩⟩
  case sub | subn => rw [reg_resultThenFlag_dest s _ _ hx, subBytes_toNat_cast]

/-! ### Shifts: the flag, then the result (R126, R169, R171) -/

/-- The result, written last, stands in its register, VF included. -/
theorem reg_flagThenResult_dest (s : State) (x : Reg) (b : Byte) (f : Bool) : (s.flagThenResult x b f).reg x = b := by
  rw [State.reg_flagThenResult, if_pos rfl]

/-- A flag that is not overwritten by the result stands in VF. -/
theorem reg_flagThenResult_VF (s : State) {x : Reg} (b : Byte) (f : Bool) (hx : x ≠ VF) :
    (s.flagThenResult x b f).reg VF = flagByte f := by
  rw [State.reg_flagThenResult, if_neg hx.symm, if_pos rfl]

/-- R169: the bit a right shift drops is the remainder by 2. -/
theorem flagByte_bitOutRight_toNat (a : Byte) : (flagByte (bitOutRight a)).toNat = a.toNat % 2 := by
  rw [bitOutRight_eq, flagByte_decide]
  split
  next hodd => exact hodd.symm
  next heven => exact (Nat.mod_two_ne_one.1 heven).symm

/-- R171: the bit a left shift drops is the quotient by 128. -/
theorem flagByte_bitOutLeft_toNat (a : Byte) : (flagByte (bitOutLeft a)).toNat = a.toNat / 128 := by
  have ha := a.isLt
  rw [bitOutLeft_eq, flagByte_decide]
  split
  · show 1 = a.toNat / 128
    omega
  · show 0 = a.toNat / 128
    omega

/-- Settles O36: both shifts write the bit they drop, then the result. -/
theorem shiftsWriteFlagThenResult : Obligations.ShiftsWriteFlagThenResult := by
  refine fun s x y => ⟨⟨_, rfl, ?shr, fun hx => ?shrFlag, onlyRegs_flagThenResult ..⟩,
    ⟨_, rfl, ?shl, fun hx => ?shlFlag, onlyRegs_flagThenResult ..⟩⟩
  case shr => rw [reg_flagThenResult_dest, shiftRight1_toNat]
  case shrFlag => rw [reg_flagThenResult_VF s _ _ hx, flagByte_bitOutRight_toNat]
  case shl => rw [reg_flagThenResult_dest, shiftLeft1_toNat]
  case shlFlag => rw [reg_flagThenResult_VF s _ _ hx, flagByte_bitOutLeft_toNat]

end Sys2Proof.Machine
end

section
/-! PROOFS. The index register and memory instructions (43_index_memory.md): a write of I and a block write to memory each
change nothing else, and the bytes a store writes are read back at I on. -/

namespace Sys2Proof.Machine

/-! ### Writes of I (R191 to R193) -/

theorem onlyIndex_setI (s : State) (a : Word) : OnlyIndex s (s.setI a) :=
  ⟨fun _ _ => rfl, rfl, fun _ => rfl, ⟨rfl, rfl⟩, ⟨rfl, rfl⟩, ⟨rfl, rfl, rfl⟩, rfl, ⟨rfl, rfl⟩, rfl, rfl, rfl⟩

/-- Settles O38: the load is one write of I, of the operand. -/
theorem ldILoadsTheAddress : Obligations.LdILoadsTheAddress := fun s nnn =>
  ⟨_, rfl, addrImm_toNat nnn, onlyIndex_setI s _⟩

/-- Settles O39: both are one write of I, of the reduced sum or of the glyph's address. -/
theorem indexArithmetic : Obligations.IndexArithmetic := fun s x =>
  ⟨⟨_, rfl, s.indexSum_toNat x, onlyIndex_setI s _⟩, ⟨_, rfl, s.glyphAddr_toNat x, onlyIndex_setI s _⟩⟩

/-! ### Block writes to memory and their frame (R190) -/

theorem onlyMem_writeBytes {s : State} (hm : s.MemCanonical) (a : Nat) (vs : List Byte) :
    OnlyMem a vs.length s (s.setMem (Memory.writeBytes s.mem a vs)) :=
  ⟨fun _ _ => rfl, rfl, rfl, fun b => Memory.read_writeBytes_outside hm a b vs, ⟨rfl, rfl⟩, ⟨rfl, rfl⟩, ⟨rfl, rfl, rfl⟩,
    rfl, ⟨rfl, rfl⟩, rfl, rfl, rfl⟩

/-! ### Decimal digits (R194) -/

/-- The digit of weight `10 ^ (2 - k)` is read back `k` bytes after the address of the store. -/
theorem read_writeBytes_bcdDigits {m : Memory} (hm : Memory.wf m = true) (a : Nat) (b : Byte) {k : Nat} (hk : k < 3) :
    (Memory.read (Memory.writeBytes m a (bcdDigits b)) (a + k)).toNat = b.toNat / 10 ^ (2 - k) % 10 := by
  rw [Memory.read_writeBytes hm a _ (bcdDigits b) (by simp) k hk rfl, getElem_bcdDigits_toNat b hk]

/-- Settles O40: the store is one block write of the digits. The hundreds digit is below 10, so its quotient stands. -/
theorem bcdStoresThreeDigits : Obligations.BcdStoresThreeDigits := by
  intro s x hm
  have digit {k : Nat} (hk : k < 3) := read_writeBytes_bcdDigits hm (s.effAddr 0) (s.reg x) hk
  have hhundreds : (s.reg x).toNat / 10 ^ 2 % 10 = (s.reg x).toNat / 100 :=
    Nat.mod_eq_of_lt (Nat.div_lt_of_lt_mul (by have := (s.reg x).isLt; omega))
  have hones : (s.reg x).toNat / 10 ^ 0 % 10 = (s.reg x).toNat % 10 := by rw [Nat.pow_zero, Nat.div_one]
  exact ⟨_, rfl, (digit (k := 0) (by decide)).trans hhundreds, digit (k := 1) (by decide),
    (digit (k := 2) (by decide)).trans hones, onlyMem_writeBytes hm _ _⟩

/-! ### Register blocks (R195, R196) -/

/-- Register `r` is read back `r` bytes after the address of the store. -/
theorem read_writeBytes_regBlock {m : Memory} (hm : Memory.wf m = true) (a : Nat) (s : State) {x r : Reg}
    (hr : r.toNat ≤ x.toNat) : Memory.read (Memory.writeBytes m a (s.regBlock x)) (a + r.toNat) = s.reg r := by
  have hx := x.isLt
  have hlen := s.length_regBlock x
  rw [Memory.read_writeBytes hm a _ _ (by omega) r.toNat (by omega) rfl, State.getElem_regBlock, BitVec.ofNat_toNat,
    BitVec.setWidth_eq]

/-- Settles O41: the store is one block write of the registers. -/
theorem storeBlockWritesTheRegisters : Obligations.StoreBlockWritesTheRegisters := by
  intro s x hm
  refine ⟨_, rfl, fun r hr => read_writeBytes_regBlock hm (s.effAddr 0) s hr, ?frame⟩
  case frame =>
    rw [← s.length_regBlock x]
    exact onlyMem_writeBytes hm _ _

theorem sameRest_loadRegBlock (s : State) (x : Reg) : SameRest s (s.loadRegBlock x) :=
  ⟨⟨s.loadRegBlock_sp x, s.loadRegBlock_stack x⟩, ⟨s.loadRegBlock_dt x, s.loadRegBlock_st x⟩,
    ⟨s.loadRegBlock_run x, s.loadRegBlock_cause x, s.loadRegBlock_info x⟩, s.loadRegBlock_wait x,
    ⟨s.loadRegBlock_fb x, s.loadRegBlock_presents x⟩, s.loadRegBlock_inputs x, s.loadRegBlock_pending x,
    s.loadRegBlock_drawn x⟩

/-- Settles O42: the load is the shared one of a register block. -/
theorem loadBlockReadsTheRegisters : Obligations.LoadBlockReadsTheRegisters := fun s x =>
  ⟨s.loadRegBlock x, rfl, s.reg_loadRegBlock x, rfl, rfl, fun _ => rfl, sameRest_loadRegBlock s x⟩

/-- Settles O43: by O42 the load reads the bytes at I on, and by O41 they are the registers stored there. -/
theorem storeThenLoadRestoresTheRegisters : Obligations.StoreThenLoadRestoresTheRegisters := by
  intro s x hm
  obtain ⟨t, hstore, hread, -⟩ := storeBlockWritesTheRegisters s x hm
  refine ⟨t, hstore, fun u hmem hi => ?_⟩
  obtain ⟨w, hload, hregs, -⟩ := loadBlockReadsTheRegisters u x
  refine ⟨w, hload, fun r hr => ?_⟩
  calc w.reg r
    _ = Memory.read u.mem (u.effAddr r.toNat) := by rw [hregs, if_pos hr]
    _ = Memory.read t.mem (s.effAddr r.toNat) := by rw [hmem, State.effAddr_eq, hi, State.effAddr_eq]
    _ = s.reg r := hread r hr

end Sys2Proof.Machine
end

section
/-! PROOFS. The display instructions (44_display.md): a draw writes the blit's collision bit to VF and presents the blit's
framebuffer, and the same blit done twice is undone. -/

namespace Sys2Proof.Machine

/-! ### Clearing the screen (R211) -/

/-- Settles O19: the one change is the Present of the clear framebuffer. -/
theorem clsClearsAndPresents : Obligations.ClsClearsAndPresents := fun s =>
  ⟨s.present Framebuffer.clear, rfl, Framebuffer.pixel_clear, rfl, fun _ _ => rfl, rfl, rfl, fun _ => rfl, ⟨rfl, rfl⟩,
    ⟨rfl, rfl⟩, ⟨rfl, rfl, rfl⟩, rfl, rfl, rfl, rfl⟩

/-! ### The state after a draw (R213) -/

/-- What a draw makes of its blit: VF is the collision bit, and the blit's framebuffer is presented. -/
def State.withBlit (s : State) (b : BlitState) : State := (s.setReg VF (flagByte b.collided)).present b.fb

theorem exec_drw (s : State) (x y : Reg) (n : Nibble) :
    exec (.drw x y n) s = .next (s.withBlit (blit s.fb (s.reg x).toNat (s.reg y).toNat (s.spriteRows n))) := rfl

@[simp] theorem State.withBlit_fb (s : State) (b : BlitState) : (s.withBlit b).fb = b.fb := rfl

theorem State.reg_VF_withBlit (s : State) (b : BlitState) : (s.withBlit b).reg VF = flagByte b.collided := by
  rw [State.withBlit, State.present_reg, State.reg_setReg, if_pos rfl]

theorem State.reg_withBlit_of_ne (s : State) (b : BlitState) {r : Reg} (hr : r ≠ VF) :
    (s.withBlit b).reg r = s.reg r := by
  rw [State.withBlit, State.present_reg, State.reg_setReg, if_neg hr]

/-- A draw leaves I and memory alone, so the next draw reads the same sprite (R190; D22, log 21). -/
@[simp] theorem State.spriteRows_withBlit (s : State) (b : BlitState) (n : Nibble) :
    (s.withBlit b).spriteRows n = s.spriteRows n := rfl

/-- Settles O20: the pixels and the collision are the blit's, the sprite is read byte by byte at I, and the rest is kept
by the state after a draw. -/
theorem drwTogglesCoveredPixels : Obligations.DrwTogglesCoveredPixels := by
  intro s x y n
  have hlen := s.length_spriteRows n
  have hcollided := blit_collided s.fb (s.reg x).toNat (s.reg y).toNat (s.spriteRows n) hlen
  refine ⟨_, exec_drw s x y n, blit_pixel_covered _ _ _ _ hlen, blit_pixel_uncovered _ _ _ _ hlen, fun hlit => ?lit,
    fun hdark => ?dark, Memory.getElem_readBytes s.mem _ _, Memory.length_readBytes .., rfl, fun r hr => ?regs, rfl, rfl,
    fun _ => rfl, ⟨rfl, rfl⟩, ⟨rfl, rfl⟩, ⟨rfl, rfl, rfl⟩, rfl, rfl, rfl, rfl⟩
  case lit => exact (State.reg_VF_withBlit ..).trans (congrArg flagByte (hcollided.2 hlit))
  case dark =>
    have hnone := Bool.eq_false_iff.2 (mt hcollided.1 hdark)
    exact (State.reg_VF_withBlit ..).trans (congrArg flagByte hnone)
  case regs => exact s.reg_withBlit_of_ne _ (List.ne_of_not_mem_cons hr)

/-! ### The same blit twice (R215) -/

/-- Each covered pixel is toggled twice, and no other is touched. -/
theorem blit_blit_fb (fb : Framebuffer) (x0 y0 : Nat) (rows : List Byte) (hlen : rows.length ≤ 32) :
    (blit (blit fb x0 y0 rows).fb x0 y0 rows).fb = fb := by
  refine Framebuffer.ext_pixel fun r c => ?_
  by_cases hcov : SpriteCovers x0 y0 rows r c
  · rw [blit_pixel_covered _ _ _ _ hlen r c hcov, blit_pixel_covered _ _ _ _ hlen r c hcov, Bool.not_not]
  · rw [blit_pixel_uncovered _ _ _ _ hlen r c hcov, blit_pixel_uncovered _ _ _ _ hlen r c hcov]

/-- A covered pixel is lit for the second blit exactly when it was dark for the first. -/
theorem blit_blit_collided (fb : Framebuffer) (x0 y0 : Nat) (rows : List Byte) (hlen : rows.length ≤ 32) :
    (blit (blit fb x0 y0 rows).fb x0 y0 rows).collided = true ↔
      ∃ r c, SpriteCovers x0 y0 rows r c ∧ fb.pixel r c = false := by
  rw [blit_collided _ _ _ _ hlen]
  refine exists_congr fun r => exists_congr fun c => and_congr_right fun hcov => ?_
  rw [blit_pixel_covered _ _ _ _ hlen r c hcov, Bool.not_eq_true']

theorem flagByte_eq_one_iff (f : Bool) : flagByte f = 0x01#8 ↔ f = true := by
  cases f <;> decide

/-- With x and y outside VF, a second draw is the same blit again, on the framebuffer the first one left. -/
theorem exec_drw_withBlit (s : State) (b : BlitState) {x y : Reg} (n : Nibble) (hx : x ≠ VF) (hy : y ≠ VF) :
    exec (.drw x y n) (s.withBlit b) =
      .next ((s.withBlit b).withBlit (blit b.fb (s.reg x).toNat (s.reg y).toNat (s.spriteRows n))) := by
  rw [exec_drw, s.reg_withBlit_of_ne b hx, s.reg_withBlit_of_ne b hy, State.spriteRows_withBlit, State.withBlit_fb]

/-- Settles O21: the two draws are one blit done twice. -/
theorem drawingTwiceRestoresTheScreen : Obligations.DrawingTwiceRestoresTheScreen := by
  intro s x y n hx hy
  have hlen := s.length_spriteRows n
  refine ⟨_, _, exec_drw s x y n, exec_drw_withBlit s _ n hx hy, blit_blit_fb _ _ _ _ hlen, ?flag⟩
  case flag =>
    rw [State.reg_VF_withBlit]
    exact (flagByte_eq_one_iff _).trans (blit_blit_collided _ _ _ _ hlen)

end Sys2Proof.Machine
end

section
/-! PROOFS. The keypad and timer instructions (45_keypad_timers.md): the key skips on the sampled level, the two steps
of the key wait, and the reads and loads of the timers. -/

namespace Sys2Proof.Machine

/-! ### Key skips (R230, R231, R236) -/

/-- R236: the level a skip samples is the one of the key that the low nibble of `V[x]` names. -/
theorem State.keyDown_keyNumber (s : State) (x : Reg) :
    s.keyDown (s.keyNumber x) = decide (s.inputs.keyDown.getLsbD ((s.reg x).toNat % 16) = true) := by
  rw [State.keyDown, State.keyNumber, BitVec.toNat_ofNat, Nat.mod_mod, Bool.decide_eq_true]

/-- Settles O31: each is the shared skip, on the sampled level or on its negation. -/
theorem keySkipsSampleTheLevel : Obligations.KeySkipsSampleTheLevel := by
  refine fun s x => ⟨⟨_, rfl, ?skp⟩, ⟨_, rfl, ?sknp⟩⟩
  case skp =>
    rw [s.keyDown_keyNumber]
    exact skipIf_decide s _
  case sknp =>
    rw [s.keyDown_keyNumber, ← decide_not, ← ite_not]
    exact skipIf_decide s _

/-! ### The key wait (R232) -/

/-- Settles O45: the first step is one write of WAIT. -/
theorem keyWaitBegins : Obligations.KeyWaitBegins := fun _ _ =>
  ⟨_, rfl, rfl, fun _ _ => rfl, rfl, rfl, fun _ => rfl, ⟨rfl, rfl⟩, ⟨rfl, rfl⟩, ⟨rfl, rfl, rfl⟩, ⟨rfl, rfl⟩, rfl, rfl,
    rfl⟩

/-- A key event touches the register file and WAIT only (R232). -/
theorem State.keyEvent_eq (s : State) (k : BitVec 4) :
    s.keyEvent k = { s with v := (s.keyEvent k).v, wait := (s.keyEvent k).wait } := by
  unfold State.keyEvent
  split <;> rfl

/-- R232, step 2: in a key wait a key event writes the waiting register and ends the wait. -/
theorem State.keyEvent_of_waitKey {s : State} {r : Reg} (k : BitVec 4) (hrun : s.run = .running)
    (hwait : s.wait = .waitKey r) : s.keyEvent k = (s.setReg r (k.setWidth 8)).setWait .none := by
  simp only [State.keyEvent, hrun, hwait]

/-- Without a key wait a key event is dropped. -/
theorem State.keyEvent_of_no_wait {s : State} (k : BitVec 4) (hrun : s.run = .running) (hwait : s.wait = .none) :
    s.keyEvent k = s := by
  simp only [State.keyEvent, hrun, hwait]

theorem State.keyEvent_wait {s : State} (k : BitVec 4) (hrun : s.run = .running) : (s.keyEvent k).wait = .none := by
  cases hwait : s.wait with
  | none => rw [s.keyEvent_of_no_wait k hrun hwait, hwait]
  | waitKey r => rw [s.keyEvent_of_waitKey k hrun hwait, State.setWait_wait]

/-- Settles O12: the step is the key event once it is taken; what it writes is said for a wait and for none, and the
rest is kept in both. -/
theorem keyEventEndsTheWait : Obligations.KeyEventEndsTheWait := by
  intro s k hrun hevent
  have htaken : s.takeEvent.run = .running := s.takeEvent_run.trans hrun
  refine ⟨_, step_of_event hevent, State.keyEvent_wait k htaken, fun r hwait => ?waiting, fun hwait => ?dropped,
    ?kept⟩
  case waiting =>
    obtain ⟨hwritten, hothers, -⟩ := setReg_writes s.takeEvent r (k.setWidth 8)
    rw [State.keyEvent_of_waitKey k htaken (s.takeEvent_wait.trans hwait)]
    refine ⟨?_, fun q hq => (hothers q hq).trans (s.takeEvent_reg q)⟩
    rw [State.setWait_reg, hwritten, BitVec.toNat_setWidth_of_le (by decide)]
  case dropped =>
    rw [State.keyEvent_of_no_wait k htaken (s.takeEvent_wait.trans hwait)]
    exact fun r _ => s.takeEvent_reg r
  case kept =>
    rw [State.keyEvent_eq, s.takeEvent_eq]
    exact ⟨rfl, rfl, fun _ => rfl, ⟨rfl, rfl⟩, ⟨rfl, rfl⟩, ⟨rfl, rfl, rfl⟩, rfl, rfl⟩

/-! ### The timers (R233 to R235) -/

/-- Settles O46: the read is one register write, and each load is one write of its timer. -/
theorem timerAccess : Obligations.TimerAccess := by
  refine fun s x => ⟨⟨_, rfl, setReg_writes s x s.dt⟩, ⟨_, rfl, rfl, rfl, ?dt⟩, ⟨_, rfl, rfl, rfl, ?st⟩⟩
  all_goals
    exact ⟨fun _ _ => rfl, rfl, rfl, fun _ => rfl, ⟨rfl, rfl⟩, ⟨rfl, rfl, rfl⟩, rfl, ⟨rfl, rfl⟩, rfl, rfl, rfl⟩

end Sys2Proof.Machine
end

section
/-! PROOFS. The events that are not cycles (40_execution_cycle.md R120): the tick and the stop of a running machine, what a
halted machine ignores (60_exceptions.md R261), and where a timer can rise (45_keypad_timers.md R267). -/

namespace Sys2Proof.Machine

/-! ### The tick (R266) -/

/-- The step of a tick in a running machine. -/
theorem step_tick {s : State} (hrun : s.run = .running) (hevent : s.nextEvent = .tick) :
    step s = .next ((s.takeEvent.setDt (countDown s.dt)).setSt (countDown s.st)) := by
  rw [step_of_event hevent, handle, State.tick_running (s.takeEvent_run.trans hrun), s.takeEvent_dt, s.takeEvent_st]

/-- R266 in its own words, the floor at 0 as a case. -/
theorem countDown_toNat_eq_ite (b : Byte) :
    (countDown b).toNat = if b.toNat > 0 then b.toNat - 1 else b.toNat := by
  rw [countDown_toNat]
  split
  next => rfl
  next hzero => omega

/-- Settles O10: the step writes both timers counted down, on the state with the event taken. -/
theorem tickCountsDownToZero : Obligations.TickCountsDownToZero := by
  intro s hrun hevent
  refine ⟨_, step_tick hrun hevent, countDown_toNat_eq_ite s.dt, countDown_toNat_eq_ite s.st, ?frame⟩
  case frame =>
    rw [s.takeEvent_eq]
    exact ⟨fun _ _ => rfl, rfl, rfl, fun _ => rfl, ⟨rfl, rfl⟩, ⟨rfl, rfl, rfl⟩, rfl, ⟨rfl, rfl⟩, rfl⟩

/-! ### The stop (R263) and the halted machine (R261) -/

/-- The step of a stop in a running machine. -/
theorem step_stop {s : State} (hrun : s.run = .running) (hevent : s.nextEvent = .stop) :
    step s = .next (s.takeEvent.raise .stop 0#16) := by
  rw [step_of_event hevent, handle, State.stopEvent, if_pos (s.takeEvent_run.trans hrun)]

/-- Settles O14: the step raises Stop on the state with the event taken, and nothing else is written. -/
theorem stopHaltsTheEngine : Obligations.StopHaltsTheEngine := by
  intro s hrun hevent
  refine ⟨_, step_stop hrun hevent, rfl, rfl, rfl, ?frame⟩
  case frame =>
    rw [s.takeEvent_eq]
    exact ⟨fun _ _ => rfl, rfl, rfl, rfl, ⟨rfl, rfl⟩, ⟨rfl, rfl⟩, rfl, ⟨rfl, rfl⟩, rfl⟩

/-- Settles O11: the event is taken, and handling it does nothing to a halted machine. -/
theorem haltedIsTerminal : Obligations.HaltedIsTerminal := by
  intro s hhalted hnoreset
  have hignored := handle_halted (s.takeEvent_run.trans hhalted) s.nextEvent hnoreset
  exact ⟨s.takeEvent, hignored, s.takeEvent_eq⟩

/-! ### Where a timer rises (R267) -/

/-- Only Fx15 changes DT. -/
theorem Effect.loads_dt {i : Instr} {s t : State} (h : Effect s i t) (hchanged : t.dt ≠ s.dt) : ∃ x, i = .ldDtVx x := by
  cases h with
  | ldDtVx x => exact ⟨x, rfl⟩
  | _ => exact absurd (by simp) hchanged

/-- Only Fx18 changes ST. -/
theorem Effect.loads_st {i : Instr} {s t : State} (h : Effect s i t) (hchanged : t.st ≠ s.st) : ∃ x, i = .ldStVx x := by
  cases h with
  | ldStVx x => exact ⟨x, rfl⟩
  | _ => exact absurd (by simp) hchanged

theorem countDown_le (b : Byte) : (countDown b).toNat ≤ b.toNat := by
  rw [countDown_toNat]
  exact Nat.sub_le _ 1

/-- A step that is neither a reset nor an instruction lets no timer rise. -/
theorem step_timers_le_or_exec {s t : State} (h : step s = .next t) (hnoreset : ∀ rom, s.nextEvent ≠ .reset rom) :
    (t.dt.toNat ≤ s.dt.toNat ∧ t.st.toNat ≤ s.st.toNat) ∨
    ∃ c i, s.nextEvent = .cycle c ∧ s.CycleEnabled ∧ decodeWord s.fetchWord = .ok i ∧
      Effect (s.takeEvent.latch c).advancePc i t := by
  rcases step_cases h with rfl | ⟨c, i, hevent, henabled, hword, hexec⟩ | ⟨c, e, -, -, -, rfl⟩ | ⟨-, -, rfl⟩ |
    ⟨k, r, -, -, -, rfl⟩ | ⟨-, -, rfl⟩ | ⟨rom, hreset, -⟩
  · exact .inl ⟨by simp, by simp⟩
  · exact .inr ⟨c, i, hevent, henabled, hword, effect_of_exec hexec⟩
  · exact .inl ⟨by simp, by simp⟩
  · exact .inl ⟨countDown_le s.dt, countDown_le s.st⟩
  · exact .inl ⟨by simp, by simp⟩
  · exact .inl ⟨by simp, by simp⟩
  · exact absurd hreset (hnoreset rom)

/-- Settles O53: a timer that rises has been changed by an instruction, and only its own load changes it. -/
theorem timersRiseOnlyByLoading : Obligations.TimersRiseOnlyByLoading := by
  intro s t hstep hnoreset
  rcases step_timers_le_or_exec hstep hnoreset with ⟨hdt, hst⟩ | ⟨c, i, hevent, henabled, hword, heff⟩
  · exact ⟨fun hrise => absurd hrise hdt.not_gt, fun hrise => absurd hrise hst.not_gt⟩
  · refine ⟨fun hrise => ?dt, fun hrise => ?st⟩
    case dt =>
      obtain ⟨x, rfl⟩ := heff.loads_dt fun hkept => by simp [hkept] at hrise
      exact ⟨c, x, hevent, henabled, hword⟩
    case st =>
      obtain ⟨x, rfl⟩ := heff.loads_st fun hkept => by simp [hkept] at hrise
      exact ⟨c, x, hevent, henabled, hword⟩

end Sys2Proof.Machine
end

section
/-! PROOFS. The fatal conditions (60_exceptions.md R250 to R258): which instructions raise which, `NewCause` lists every
way a step can come to show a cause, and the rules about each cause are read off its cases. -/

namespace Sys2Proof.Machine

/-! ### What an instruction raises -/

/-- The conditions an instruction raises, with `sp` entries on the stack (R250). -/
inductive Raises (sp : Fin 17) : Instr → Cause → Prop
  /-- 2nnn with a full stack (R252). -/
  | callFull (nnn : Addr12) (h : sp = 16) : Raises sp (.call nnn) .stackOverflow
  /-- 00EE with an empty stack (R254). -/
  | retEmpty (h : sp = 0) : Raises sp .ret .returnWithEmptyStack
  /-- 0nnn outside `SYS_NOP_SET` (R251). -/
  | sysUnsupported (nnn : Addr12) (h : ¬ Config.sysNop nnn = true) : Raises sp (.sys nnn) .unsupportedOpcode

/-- An instruction leaves RUN, CAUSE and INFO, or raises its condition. -/
theorem Effect.sameRun_or_raises {i : Instr} {s t : State} (h : Effect s i t) :
    SameRun s t ∨ Raises s.sp i t.cause := by
  cases h with
  | callFull nnn hfull => exact .inr (.callFull nnn hfull)
  | retEmpty hempty => exact .inr (.retEmpty hempty)
  | sysUnsupported nnn hsys => exact .inr (.sysUnsupported nnn hsys)
  | _ => exact .inl ⟨by simp, by simp, by simp⟩

/-! ### What a step raises -/

/-- Every way a step from `s` can come to show a cause (R250). -/
inductive NewCause (s : State) : Cause → Prop
  /-- An enabled cycle runs an instruction that raises it. -/
  | instruction {c : CycleInputs} {i : Instr} {cause : Cause} (hevent : s.nextEvent = .cycle c) (henabled : s.CycleEnabled)
      (hword : decodeWord s.fetchWord = .ok i) (h : Raises s.sp i cause) : NewCause s cause
  /-- An enabled cycle fetches an Illegal word (R251). -/
  | illegal {c : CycleInputs} {e : Illegal} (hevent : s.nextEvent = .cycle c) (henabled : s.CycleEnabled)
      (hword : decodeWord s.fetchWord = .error e) : NewCause s .unsupportedOpcode
  /-- A stop (R263). -/
  | stop (hevent : s.nextEvent = .stop) : NewCause s .stop
  /-- A reset with a ROM that does not fit (R255). -/
  | romTooLarge {rom : List Byte} (hevent : s.nextEvent = .reset rom) (hlarge : 3584 < rom.length) :
      NewCause s .romTooLarge

/-- A step leaves RUN, CAUSE and INFO, or starts the machine again, or comes to show a listed cause. -/
theorem step_cause_cases {s t : State} (h : step s = .next t) :
    SameRun s t ∨ (t.run = .running ∧ t.cause = .none) ∨ NewCause s t.cause := by
  rcases step_cases h with rfl | ⟨c, i, hevent, henabled, hword, hexec⟩ | ⟨c, e, hevent, henabled, hword, rfl⟩ |
    ⟨-, -, rfl⟩ | ⟨k, r, -, -, -, rfl⟩ | ⟨hevent, -, rfl⟩ | ⟨rom, hevent, rfl⟩
  · exact .inl ⟨by simp, by simp, by simp⟩
  · rcases (effect_of_exec hexec).sameRun_or_raises with ⟨hrun, hcause, hinfo⟩ | hraises
    · exact .inl ⟨by simpa using hrun, by simpa using hcause, by simpa using hinfo⟩
    · exact .inr (.inr (.instruction hevent henabled hword (by simpa using hraises)))
  · exact .inr (.inr (.illegal hevent henabled hword))
  · exact .inl ⟨by simp, by simp, by simp⟩
  · exact .inl ⟨by simp, by simp, by simp⟩
  · exact .inr (.inr (.stop hevent))
  · rcases Nat.lt_or_ge 3584 rom.length with hlarge | hfits
    · rw [s.takeEvent.boot_tooLarge hlarge]
      exact .inr (.inr (.romTooLarge hevent hlarge))
    · rw [s.takeEvent.boot_fits hfits]
      exact .inr (.inl ⟨rfl, rfl⟩)

/-- A cause that was not there before the step is a listed one. -/
theorem newCause_of_step {s t : State} {cause : Cause} (h : step s = .next t) (hbefore : s.cause ≠ cause)
    (hafter : t.cause = cause) (hsome : cause ≠ .none) : NewCause s cause := by
  subst hafter
  rcases step_cause_cases h with ⟨-, hkept, -⟩ | ⟨-, hnone⟩ | hnew
  · exact absurd hkept.symm hbefore
  · exact absurd hnone hsome
  · exact hnew

/-! ### The rules about each cause -/

/-- Settles O17: a reset boots the machine with the ROM or halts it, and no instruction raises this cause. -/
theorem romTooLargeOnlyAtBoot : Obligations.RomTooLargeOnlyAtBoot := by
  refine ⟨fun s rom hevent hlarge => ?large, fun s rom hevent hfits => ?fits, fun i s t hexec hbefore hafter => ?instr⟩
  case large =>
    refine ⟨_, step_reset hevent, ?_⟩
    rw [s.takeEvent.boot_tooLarge hlarge]
    exact ⟨rfl, rfl, rfl⟩
  case fits =>
    refine ⟨_, step_reset hevent, ?_⟩
    rw [s.takeEvent.boot_fits hfits]
    exact ⟨rfl, rfl⟩
  case instr =>
    rcases (effect_of_exec hexec).sameRun_or_raises with ⟨-, hkept, -⟩ | hraises
    · exact hbefore (hkept.symm.trans hafter)
    · rw [hafter] at hraises
      cases hraises

/-- Settles O23: of the listed ways to show a new cause, only a return with an empty stack shows this one. -/
theorem onlyRetRaisesReturnWithEmptyStack : Obligations.OnlyRetRaisesReturnWithEmptyStack := by
  refine ⟨fun s hempty => ⟨_, exec_ret_of_empty hempty, rfl, rfl, rfl⟩, fun s t hstep hbefore hafter => ?onlyRet⟩
  case onlyRet =>
    cases newCause_of_step hstep hbefore hafter nofun with
    | @instruction c _ _ hevent henabled hword hraises =>
      cases hraises with
      | retEmpty hempty => exact ⟨c, hevent, henabled, hempty, hword⟩

/-- Settles O25: of the listed ways to show a new cause, only a call with a full stack shows this one. -/
theorem onlyCallRaisesStackOverflow : Obligations.OnlyCallRaisesStackOverflow := by
  refine ⟨fun s nnn hfull => ⟨_, exec_call_of_full nnn hfull, rfl, rfl, rfl⟩, fun s t hstep hbefore hafter => ?onlyCall⟩
  case onlyCall =>
    cases newCause_of_step hstep hbefore hafter nofun with
    | @instruction c _ _ hevent henabled hword hraises =>
      cases hraises with
      | callFull nnn hfull => exact ⟨c, nnn, hevent, henabled, hfull, hword⟩

/-- R253, R256: the two conditions nothing raises are not among the listed ways to show a cause. -/
theorem NewCause.raisable {s : State} {cause : Cause} (h : NewCause s cause) :
    cause ≠ .stackUnderflow ∧ cause ≠ .invalidRegister := by
  cases h with
  | instruction _ _ _ hraises => cases hraises <;> exact ⟨nofun, nofun⟩
  | illegal | stop | romTooLarge => exact ⟨nofun, nofun⟩

/-- Settles O55: a new cause is a listed one, and neither is listed. -/
theorem unreachableConditionsAreNotRaised : Obligations.UnreachableConditionsAreNotRaised := by
  refine fun s t hstep => ⟨fun hbefore hafter => ?underflow, fun hbefore hafter => ?register⟩
  case underflow => exact (newCause_of_step hstep hbefore hafter nofun).raisable.1 rfl
  case register => exact (newCause_of_step hstep hbefore hafter nofun).raisable.2 rfl

/-! ### The closed list (R250) -/

/-- Every event is answered with a next state (log 4, log 5). -/
theorem handle_answers (e : Event) (s : State) : ∃ t, handle e s = .next t := by
  cases e with
  | cycle c =>
    rcases handle_cycle_cases s c with ⟨-, hpass⟩ | ⟨-, i, -, hrun⟩ | ⟨-, e, -, hraise⟩
    · exact ⟨_, hpass⟩
    · obtain ⟨t, hexec, -⟩ := exec_answers i (s.latch c).advancePc
      exact ⟨t, hrun.trans hexec⟩
    · exact ⟨_, hraise⟩
  | tick | key | stop | reset => exact ⟨_, rfl⟩

/-- Settles O56: a step that halts a running machine changes RUN and does not start the machine again, so it shows a
listed cause. -/
theorem everyStepAnswersANextState : Obligations.EveryStepAnswersANextState := by
  intro s
  obtain ⟨t, hstep⟩ := handle_answers s.nextEvent s.takeEvent
  refine ⟨t, hstep, fun hrunning hhalted => ?_⟩
  have hnew : NewCause s t.cause := by
    rcases step_cause_cases hstep with ⟨hkept, -, -⟩ | ⟨hstarted, -⟩ | hnew
    · exact absurd (hhalted.symm.trans (hkept.trans hrunning)) nofun
    · exact absurd (hhalted.symm.trans hstarted) nofun
    · exact hnew
  generalize t.cause = cause at hnew ⊢
  cases hnew with
  | instruction _ _ _ hraises => cases hraises <;> simp
  | illegal => simp
  | stop hevent => exact .inl ⟨rfl, hevent⟩
  | romTooLarge hevent => exact .inr (.inl ⟨_, hevent, rfl⟩)

end Sys2Proof.Machine
end

section
/-! PROOFS. The word a reset fetches first (70_reset_and_hazards.md R292) and the machine parked at a jump to itself
(R311). -/

namespace Sys2Proof.Machine

/-! ### The reset vector (R292) -/

/-- The word fetched, from the two bytes that stand at PC and after it (R63). -/
theorem State.fetchWord_toNat_of_read {s : State} {hi lo : Byte} (hhigh : Memory.read s.mem s.pc.toNat = hi)
    (hlow : Memory.read s.mem (s.pc.toNat + 1) = lo) : s.fetchWord.toNat = hi.toNat * 256 + lo.toNat := by
  rw [s.fetchWord_toNat, hhigh, hlow]

/-- Settles O15: PC is 0x200, where the loaded ROM starts, so the two bytes fetched are bytes 0 and 1 of the ROM. -/
theorem resetVectorFetchesTheRom : Obligations.ResetVectorFetchesTheRom := by
  intro s hi lo rest hevent hfits
  refine ⟨_, step_reset hevent, ?_⟩
  rw [s.takeEvent.boot_fits hfits]
  refine ⟨rfl, State.fetchWord_toNat_of_read ?high ?low, rfl, rfl⟩
  case high => exact Memory.read_rom hfits 0 (by simp)
  case low => exact Memory.read_rom hfits 1 (by simp)

/-! ### A parked machine (R311) -/

/-- Parking depends on PC and memory only. -/
theorem State.Parked.congr {s t : State} (hs : s.Parked) (hpc : t.pc = s.pc) (hmem : t.mem = s.mem) : t.Parked := by
  have hfetch : t.fetchWord = s.fetchWord := by rw [State.fetchWord, State.fetchWord, hpc, hmem]
  rwa [State.Parked, hpc, hfetch]

/-- The word a parked machine fetches is that of a jump whose target is PC. -/
theorem State.Parked.fetchWord_eq {s : State} (hs : s.Parked) :
    ∃ nnn, s.fetchWord = encode (.jp nnn) ∧ addrImm nnn = s.pc := by
  obtain ⟨hlow, hword⟩ := hs
  have hpc : (s.pc.setWidth 12).toNat = s.pc.toNat := by
    rw [BitVec.toNat_setWidth]
    omega
  refine ⟨s.pc.setWidth 12, BitVec.eq_of_toNat_eq ?jump, BitVec.eq_of_toNat_eq ?target⟩
  case jump =>
    rw [hword, encode, wordNNN_toNat, hpc]
    rfl
  case target => rw [addrImm_toNat, hpc]

/-- An enabled cycle of a parked machine latches the inputs and does nothing else: the jump undoes the advance of PC. -/
theorem cycle_of_parked {s : State} (c : CycleInputs) (hs : s.Parked) : cycle c s = .next (s.latch c) := by
  obtain ⟨nnn, hword, htarget⟩ := hs.fetchWord_eq
  have hdecode : decodeWord s.fetchWord = .ok (.jp nnn) := by rw [hword, decodeWord_encode rfl]
  rw [cycle_of_decodeWord_ok c hdecode, exec, execJp, htarget]
  rfl

/-- Settles O57: the step is an enabled cycle of the machine with the event taken, which is parked as well. -/
theorem parkedStaysParked : Obligations.ParkedStaysParked := by
  intro s c hs hrun hwait hevent
  have htaken : s.takeEvent.Parked := hs.congr s.takeEvent_pc s.takeEvent_mem
  have hstep : step s = .next (s.takeEvent.latch c) :=
    (step_enabled_cycle hrun hwait hevent).trans (cycle_of_parked c htaken)
  exact ⟨_, hstep, htaken.congr rfl rfl, congrArg (State.latch · c) s.takeEvent_eq⟩

end Sys2Proof.Machine
end
